-- ==== Sys2Proof/Word.lean ====
section
/-! DEFINITION. The word types of the engine and the names of its pin levels and directions
(00_scope.md R9, R10; 20_memory.md R52). -/

namespace Sys2Proof

/-- A byte, an unsigned integer 0..255 (R10). -/
abbrev Byte := BitVec 8

/-- A 32-bit quantity: a raw sample or a checksum operand (R10, R120). -/
abbrev Word := BitVec 32

/-- A pin id: an opaque name of one digital line, one byte wide in a request (R52, R88). -/
abbrev Pin := BitVec 8

/-- The level of a digital line: low is 0, high is 1 (R9). -/
inductive Level where
  | low
  | high
  deriving DecidableEq, Repr, Inhabited

/-- The direction of a digital line (R9). -/
inductive Dir where
  | input
  | output
  deriving DecidableEq, Repr

end Sys2Proof
end

