-- ==== Sys2Proof/Config.lean ====
section
/-! DEFINITION. What is fixed for a run: the parameters of Table P (00_scope.md R5, R6) and the free
values that stand for the answers of an unconstrained environment (R16). -/

namespace Sys2Proof

/-- The three lines of one device: an entry of `PINMAP` (Table P, R22). -/
structure DevicePins where
  cs : Pin
  drdy : Pin
  rst : Pin
  deriving DecidableEq, Repr

/-- The OPEN parameters of Table P, the ones the spec has the model take as an argument (R5, R131 and
the OPEN table of 92_eei_decisions.md). -/
structure Params where
  opWreg : Byte
  opRreg : Byte
  cmdStop : Byte
  cmdStart : Byte
  regId : Byte
  regMode0 : Byte
  regMode1 : Byte
  regMode2 : Byte
  regInpmux : Byte
  regRefmux : Byte
  mode2Value : Byte
  refmuxValue : Byte
  delay35us : Byte
  idShift : Nat
  tResetMs : Nat
  regAddrBits : Nat
  readyPollLimit : Nat
  pinmap : List DevicePins
  deriving DecidableEq, Repr

/-- The reference parameter set P0 (Table P, column P0). PRESUMED: the spec has these numbers from
general knowledge (93_implementation_defined.md G1 to G9); log entry 1. -/
def Params.p0 : Params where
  opWreg := 0x40
  opRreg := 0x20
  cmdStop := 0x0A
  cmdStart := 0x08
  regId := 0x00
  regMode0 := 0x03
  regMode1 := 0x04
  regMode2 := 0x05
  regInpmux := 0x06
  regRefmux := 0x0F
  mode2Value := 0x80
  refmuxValue := 0x24
  delay35us := 0x03
  idShift := 0
  tResetMs := 300
  regAddrBits := 5
  readyPollLimit := 4000000
  pinmap := [{ cs := 22, drdy := 17, rst := 18 }]

namespace Config

/-- `NDEV_MAX`: most devices in the stack (Table P, fixed by the source). -/
def ndevMax : Nat := 3

/-- `CH_MAX`: largest valid channel id (Table P, fixed by the source). -/
def chMax : Nat := 10

/-- `MUXN_COMMON`, in the low nibble of a byte (Table P, R87). -/
def muxnCommon : Byte := 0x0A

/-- `CHK_CONST`: additive constant of the checksum (Table P, R120). -/
def chkConst : Byte := 0x9B

/-- `RETRY_LIMIT`: most framed reads per channel read (Table P, R168). -/
def retryLimit : Nat := 50

/-- `FAIL_VALUE`: the distinguished failure sample (Table P, R166). -/
def failValue : Word := 0xFFFFFFFF

/-- `INVALID_CH_VALUE`: result for a channel above `CH_MAX` (Table P, R169). -/
def invalidChValue : Word := 0x00000000

/-- `T_SETTLE_MS`: settle delay after each configuration write (Table P, R142). -/
def tSettleMs : Nat := 5

/-- `ID_EXPECTED`: expected chip identity value (Table P, R140). -/
def idExpected : Byte := 1

/-- `COUNT_ONE`: count byte meaning "one register" (Table P, R56). -/
def countOne : Byte := 0x00

/-- `RD_FILL`: byte sent while reading (Table P, R12). -/
def rdFill : Byte := 0x00

/-- Free value (R16): the byte an unconstrained environment returns to draw number `n`. It has no body,
so nothing can be proved of its value; log entry 3. -/
opaque freeByte : Nat → Byte

/-- Free value (R16): the level an unconstrained environment answers to draw number `n`. It has no body,
so nothing can be proved of its value; log entry 3. -/
opaque freeLevel : Nat → Level

end Config

/-- `CLASS_MASK` of R93: the bits of an opcode byte above the register address. -/
def Params.classMask (p : Params) : Byte := 0xFF#8 <<< p.regAddrBits

/-- The six register addresses the engine uses (R33). -/
def Params.registers (p : Params) : List Byte :=
  [p.regId, p.regMode0, p.regMode1, p.regMode2, p.regInpmux, p.regRefmux]

/-- The constraints between parameters that R6 names, with the ranges Table P gives. -/
abbrev Params.WF (p : Params) : Prop :=
  1 ≤ p.readyPollLimit ∧ p.idShift ≤ 7 ∧ p.pinmap.length ≤ Config.ndevMax ∧
  [p.opWreg, p.opRreg, p.cmdStop, p.cmdStart].Nodup ∧ p.registers.Nodup ∧
  (∀ r ∈ p.registers, ∀ c ∈ [p.cmdStop, p.cmdStart], p.opWreg ||| r ≠ c ∧ p.opRreg ||| r ≠ c)

/-- The premises under which R93 classifies a register frame: opcode patterns with zero address bits
that differ. -/
abbrev Params.WireWF (p : Params) : Prop :=
  p.opWreg &&& ~~~p.classMask = 0 ∧ p.opRreg &&& ~~~p.classMask = 0 ∧ p.opWreg ≠ p.opRreg

end Sys2Proof
end

