-- ==== Sys2Proof/Machine/Table.lean ====
section
/-! DEFINITION. Sparse maps in one canonical form: the form of `E.rate`, `E.chip_id` (10_state.md R20, R23),
`Env.dir`, `Env.out` (R32) and of the mock device's register file (R40, 20_memory.md R50). -/

namespace Sys2Proof.Machine

/-- A map from addresses to values: entries in strictly rising order of address. An address with no entry
holds no value (R23). -/
abbrev Table (α : Type) := List (Nat × α)

/-- A map of bytes: an addressed byte store. -/
abbrev Memory := List Host.Cell

/-- The value at an address, `none` where nothing has been written. -/
def Table.get {α : Type} : Table α → Nat → Option α
  | [], _ => none
  | (a, v) :: t, k => if a = k then some v else Table.get t k

/-- Write a value at an address, keeping the canonical form. -/
def Table.set {α : Type} : Table α → Nat → α → Table α
  | [], k, v => [(k, v)]
  | (a, w) :: t, k, v =>
    if k < a then (k, v) :: (a, w) :: t
    else if k = a then (k, v) :: t
    else (a, w) :: Table.set t k v

/-- The canonical form: addresses strictly rising. No entry can equal what an unlisted address reads as,
since that is no value at all. -/
def Table.wf {α : Type} : Table α → Bool
  | [] => true
  | [_] => true
  | (a, _) :: (b, w) :: t => decide (a < b) && Table.wf ((b, w) :: t)

/-- Read one byte of a byte store (R50). -/
def Memory.read (m : Memory) (a : Nat) : Option Byte := Table.get m a

/-- Write one byte of a byte store (R50). -/
def Memory.write (m : Memory) (a : Nat) (v : Byte) : Memory := Table.set m a v

/-- The canonical form of a byte store. -/
def Memory.wf (m : Memory) : Bool := Table.wf m

end Sys2Proof.Machine
end

