-- ==== Sys2Proof/Machine/Port.lean ====
section
/-! DEFINITION. What crosses the engine's boundary: the interface events of 00_scope.md R12, the diagnostic
events of 60_exceptions.md R192, and the pin state of the Digital I/O Port (10_state.md R32). -/

namespace Sys2Proof.Machine

/-- The Status/CRC Frame: a status byte, four data bytes, a check byte (R18, R28). -/
structure Frame where
  status : Byte
  d3 : Byte
  d2 : Byte
  d1 : Byte
  d0 : Byte
  chk : Byte
  deriving DecidableEq, Repr

/-- The diagnostic events of R192 with their payloads. -/
inductive Diag where
  | cfgMismatch (cs : Pin) (reg written readback : Byte)
  | idMismatch (cs : Pin) (id : Byte)
  | idOk (cs : Pin) (id : Byte)
  | readyTimeout (drdy : Pin)
  | chkFail (cs : Pin) (ch : Byte) (attempt : Nat) (value : Word) (chk : Byte)
  | readFailed (cs : Pin) (ch : Byte)
  deriving DecidableEq, Repr

/-- The code of a diagnostic event (R192). -/
def Diag.code : Diag → Nat
  | .cfgMismatch _ _ _ _ => 1
  | .idMismatch _ _ => 2
  | .idOk _ _ => 3
  | .readyTimeout _ => 4
  | .chkFail _ _ _ _ _ => 5
  | .readFailed _ _ => 6

/-- The six kinds of interface event (R12). -/
inductive Event where
  | cfg (p : Pin) (d : Dir)
  | wr (p : Pin) (l : Level)
  | rd (p : Pin) (l : Level)
  | xfer (sent returned : Byte)
  | dly (ms : Nat)
  | dg (d : Diag)
  deriving DecidableEq, Repr

/-- Pin state of the Digital I/O Port: the direction set by `PinCfg` and the level last written by
`PinWrite`, for each pin that has one (R32). -/
structure Pins where
  dir : Table Dir
  out : Table Level
  deriving DecidableEq, Repr

/-- What an interface event does to the pin state (R32, R204). The spec speaks of the level written to an
output only; that a write is recorded for any pin, whatever its direction or lack of one, is the model's
choice (DESIGN CHOICE, log entry 23). -/
def Pins.apply (s : Pins) : Event → Pins
  | .cfg p d => { s with dir := Table.set s.dir p.toNat d }
  | .wr p l => { s with out := Table.set s.out p.toNat l }
  | .rd _ _ => s
  | .xfer _ _ => s
  | .dly _ => s
  | .dg _ => s

/-- The bring-up pin configuration of one device (R221). -/
def bringUpDevice (d : DevicePins) : List Event :=
  [.cfg d.rst .output, .cfg d.cs .output, .cfg d.drdy .input, .wr d.cs .high, .wr d.rst .high]

/-- The bring-up pin configuration, for each entry of `PINMAP` in list order (R221). -/
def bringUpEvents (pinmap : List DevicePins) : List Event := pinmap.flatMap bringUpDevice

/-- The pin state a list of events leaves. -/
def Pins.applyAll (s : Pins) (evs : List Event) : Pins := evs.foldl Pins.apply s

end Sys2Proof.Machine
end

