-- ==== Sys2Proof/Machine/State.lean ====
section
/-! DEFINITION. The state of the machine as plain data: the engine record of 10_state.md Table S (R20), the
pin state of R32, the environment that answers (R16, R34, R40), the inputs and the observations; the outcomes
that stop a step; and the state after reset (R43, 70_reset_and_hazards.md R220, R221). -/

namespace Sys2Proof.Machine

/-- The scan mode flag: 0 = single-ended, 1 = differential (R21). -/
inductive ScanMode where
  | singleEnded
  | differential
  deriving DecidableEq, Repr

/-- The sequencer phase (R24). -/
inductive Phase where
  | idle
  | selecting
  | converting
  | waitingReady
  | reading
  | valid
  | retrying
  | failed
  deriving DecidableEq, Repr

/-- The engine state `E`, Table S (R20). -/
structure Engine where
  scanMode : ScanMode
  rate : Memory
  chipId : Memory
  phase : Phase
  attempt : Nat
  poll : Nat
  idx : Nat
  out : List Word
  frame : Option Frame
  csHeld : Option Pin
  diag : List Diag
  released : Bool
  deriving DecidableEq, Repr

/-- A chip-select window as the reference mock sees it: the pin and the bytes sent and returned so far,
whose number is `Mock.pos` (R40). -/
structure Window where
  cs : Pin
  bytes : List (Byte × Byte)
  deriving DecidableEq, Repr

/-- What the reference mock answers on a data-ready pin: `after k` is 1 to the first `k` reads of each wait
and then 0, `never` is always 1 (R40). -/
inductive ReadyScript where
  | after (k : Nat)
  | never
  deriving DecidableEq, Repr

/-- The reference mock device of R40, for every chip-select and data-ready pin. `regs` is keyed by
`cs:reg`; `reads` counts the reads of each pin since the last `Wr` or `X`. -/
structure Mock where
  regs : Memory
  frames : Table (List Frame)
  frameRepeat : Table Bool
  ready : Table ReadyScript
  window : Option Window
  reads : Table Nat
  bus : List Window
  deriving DecidableEq, Repr

/-- Who answers the engine's pin reads and byte transfers (R16). `unconstrained`: every answer is a free
value. `scripted`: the answers are the ones listed, in order, then free values; since any environment gives
some list of answers in any one run, quantifying over the lists is quantifying over the environments.
`mock`: the reference mock of R40. Log entries 3 and 4. -/
inductive Env where
  | unconstrained
  | scripted (bytes : List Byte) (levels : List Level)
  | mock (m : Mock)
  deriving DecidableEq, Repr

/-- The result of an operation (R14, R88). -/
inductive Result where
  | none
  | byte (b : Byte)
  | word (v : Word)
  | words (vs : List Word)
  | frame (status : Byte) (value : Word) (chk : Byte)
  deriving DecidableEq, Repr

/-- The machine. `engine` is the engine record (R20) and `pins` the port's pin state (R32); `params` is the
run's configuration (R5), which no step changes; `env` answers; `hostIn` holds the request bytes the host has
presented and the engine not yet served (R88, R90), `wireIn` a wire window presented for itself (log entry 6)
and `resetIn` the platform's reset (R220). The last four are the model's own: the result of the last
operation, the trace of all interface events (R12), the values written to `E.phase`, and the index of the
next free answer (log entries 3 and 8). -/
structure State where
  params : Params
  engine : Engine
  pins : Pins
  env : Env
  hostIn : List Byte
  wireIn : Option (Pin × List Byte)
  resetIn : Bool
  result : Result
  trace : List Event
  phases : List Phase
  draws : Nat
  deriving DecidableEq, Repr

/-- The engine has no faults: "all failures are local and observational (printed diagnostics); none unwind
or abort the process" (R190, R199), and no behaviour of it is treated as fault or stuck
(93_implementation_defined.md). So the type has no constructor. -/
inductive Fault where
  deriving DecidableEq, Repr

/-- Why the spec gives an operation no meaning in a state (R14, R196). Each is safe: nothing is claimed of
what a refused operation does. -/
inductive Refusal where
  /-- An instruction without a meaning in this model. Raised by `exec` only. Safe. -/
  | notModelled (mnemonic : String)
  /-- Any operation after SHUTDOWN (R31, R196). Raised by every meaning, through `State.whenLive`. Safe. -/
  | released
  /-- RDCHAN, or RDCHANS with a non-empty list, in differential mode (R170, R196). Raised by `execRdchan` and
  `execRdchans`. Safe. -/
  | unsupportedMode
  /-- A host request whose id byte is not 0x01..0x0F (R90, R196). Raised by `execReserved`. Safe. -/
  | reservedOp (id : Byte)
  /-- SETMODE whose mode byte is above 1 (R90, R196). Raised by `execSetmode`. Safe. -/
  | badOperand (mode : Byte)
  /-- A wire window of a shape no row of the wire layer has (R93: "Any other shape is not produced by any
  operation of this spec"), after SHUTDOWN too. Raised by `step`, through `State.fetch`. Safe; log entry 6. -/
  | noWireRow
  deriving DecidableEq, Repr

/-- The engine fields after engine reset (R43). -/
def Engine.reset : Engine where
  scanMode := .singleEnded
  rate := []
  chipId := []
  phase := .idle
  attempt := 0
  poll := 0
  idx := 0
  out := []
  frame := none
  csHeld := none
  diag := []
  released := false

/-- The machine right after its first reset, at power-on, under the parameter set `p` (R43, R220, R221):
the engine fields at their reset values and the bring-up pin configuration performed. -/
def State.resetWith (p : Params) : State where
  params := p
  engine := .reset
  pins := Pins.applyAll { dir := [], out := [] } (bringUpEvents p.pinmap)
  env := .unconstrained
  hostIn := []
  wireIn := none
  resetIn := false
  result := .none
  trace := bringUpEvents p.pinmap
  phases := []
  draws := 0

/-- The machine right after reset, under the reference parameter set P0. PRESUMED: the values of the OPEN
parameters (log entry 1); every other field is as the spec or its log entry says. -/
def State.reset : State := State.resetWith Params.p0

end Sys2Proof.Machine
end

