-- ==== Sys2Proof/Machine/Flags.lean ====
section
/-! DEFINITION. The engine has no flags (10_state.md R35). What a flag would record is a diagnostic event
or, for a frame, the value of CHKSUM, which is computed here (41_checksum.md R120, R121). -/

namespace Sys2Proof.Machine

/-- The sum of the four bytes of a value, modulo 256 (R120). -/
def byteSum (value : Word) : Byte :=
  value.extractLsb' 0 8 + value.extractLsb' 8 8 + value.extractLsb' 16 8 + value.extractLsb' 24 8

/-- The expected check byte `e` of R120. -/
def expectedCheck (value : Word) : Byte := byteSum value + Config.chkConst

/-- CHKSUM: the expected check byte exclusive-or the received one; 0 exactly when they agree (R120). -/
def checksum (value : Word) (rx : Byte) : Byte := expectedCheck value ^^^ rx

/-- A frame passes when CHKSUM of its sample and its check byte is 0 (R124). -/
def framePasses (value : Word) (chk : Byte) : Bool := checksum value chk = 0x00

end Sys2Proof.Machine
end

