-- ==== Sys2Proof/Machine/Mock.lean ====
section
/-! DEFINITION. The environment: the reference mock device of 10_state.md R40, and how each environment
answers a byte transfer and a pin read and takes notice of an event (00_scope.md R16). -/

namespace Sys2Proof.Machine

/-- What the mock takes a transaction for, from its first byte (R40). -/
inductive MockKind where
  | regWrite (a : Byte)
  | regRead (a : Byte)
  | frameRead
  | command
  deriving DecidableEq, Repr

/-- Classification of a transaction by the first byte sent (R40; the masks 0xE0 and 0x1F are `CLASS_MASK`
and its complement, R93). That a byte which meets two of the rule's classes, as it can with an `OP_WREG` or
`OP_RREG` of 0x00, falls in the first the rule lists is the model's choice (DESIGN CHOICE, log entry 4). -/
def mockKind (p : Params) (b : Byte) : MockKind :=
  if b &&& p.classMask = p.opWreg then .regWrite (b &&& ~~~p.classMask)
  else if b &&& p.classMask = p.opRreg then .regRead (b &&& ~~~p.classMask)
  else if b = Config.rdFill then .frameRead
  else .command

/-- The address `cs:reg` of a device register (R13, R50). -/
def regAddr (cs : Pin) (reg : Byte) : Nat := cs.toNat * 256 + reg.toNat

/-- Byte number `i` of a frame in the order it is served, 0 to 5 (R40, R85). -/
def Frame.byteAt (f : Frame) : Nat → Option Byte
  | 0 => some f.status
  | 1 => some f.d3
  | 2 => some f.d2
  | 3 => some f.d1
  | 4 => some f.d0
  | 5 => some f.chk
  | _ => none

/-- The first byte sent in a window, given the byte being sent now. -/
def Window.firstByte (w : Window) (b : Byte) : Byte :=
  match w.bytes with
  | [] => b
  | (b0, _) :: _ => b0

/-- The frame the mock serves next on a chip-select pin. -/
def Mock.headFrame (m : Mock) (cs : Pin) : Option Frame :=
  match Table.get m.frames cs.toNat with
  | some (f :: _) => some f
  | _ => none

/-- The mock's answer to transfer number `n` of a register read of address `a`: 0x00 to the first byte (vector
V-REG-3) and to the count byte, the register to transfer 2. R40 says nothing of a later one, which is left to a
free value (DESIGN CHOICE, log entry 4). -/
def Mock.readAnswer (m : Mock) (cs : Pin) (a : Byte) : Nat → Option Byte
  | 0 => some 0
  | 1 => some 0
  | 2 => m.regs.read (regAddr cs a)
  | _ => none

/-- The mock's answer to a transfer, `none` where R40 gives none: no window open, a register with no start
value, an empty frame queue, a transfer past the third of a register read or past the frame's end; a free value
is then taken (DESIGN CHOICE, log entry 4). -/
def Mock.answerByte (p : Params) (m : Mock) (b : Byte) : Option Byte :=
  match m.window with
  | none => none
  | some w =>
    match mockKind p (w.firstByte b) with
    | .regWrite _ => some 0
    | .regRead a => m.readAnswer w.cs a w.bytes.length
    | .frameRead =>
      match m.headFrame w.cs with
      | some f => f.byteAt w.bytes.length
      | none => none
    | .command => some 0

/-- The mock's answer to a read of a data-ready pin, `none` for a pin with no script (R40). -/
def Mock.answerLevel (m : Mock) (p : Pin) : Option Level :=
  match Table.get m.ready p.toNat with
  | some .never => some .high
  | some (.after k) =>
    some (if ((Table.get m.reads p.toNat).getD 0) < k then .high else .low)
  | none => none

/-- The frame queue after a whole frame was served: the head goes, unless it is the last and repeats
(R40). R40 gives `frame_repeat` no default; that a chip-select pin with no entry does not repeat is the model's
choice (DESIGN CHOICE, log entry 4). -/
def Mock.popFrame (m : Mock) (cs : Pin) : Mock :=
  match Table.get m.frames cs.toNat with
  | some [_] =>
    if (Table.get m.frameRepeat cs.toNat).getD false then m
    else { m with frames := Table.set m.frames cs.toNat [] }
  | some (_ :: rest) => { m with frames := Table.set m.frames cs.toNat rest }
  | _ => m

/-- The effect of a transfer on the mock's device: transfer 2 of a register write stores the byte,
transfer 5 of a framed read pops the frame (R40). -/
def Mock.transferEffect (p : Params) (m : Mock) (w : Window) (b : Byte) : Mock :=
  match mockKind p (w.firstByte b) with
  | .regWrite a =>
    if w.bytes.length = 2 then { m with regs := m.regs.write (regAddr w.cs a) b } else m
  | .frameRead => if w.bytes.length = 5 then m.popFrame w.cs else m
  | .regRead _ => m
  | .command => m

/-- How the mock takes notice of an event (R40). A window in which nothing was transferred is no
transaction (20_memory.md R57) and is not put on `bus`. That a line going low while a window is open opens a new
window and drops the open one is the model's choice (DESIGN CHOICE, log entry 4). -/
def Mock.observe (p : Params) (m : Mock) : Event → Mock
  | .wr cs .low => { m with window := some { cs := cs, bytes := [] }, reads := [] }
  | .wr cs .high =>
    match m.window with
    | some w =>
      if w.cs = cs then
        { m with window := none, reads := [], bus := if w.bytes = [] then m.bus else m.bus ++ [w] }
      else { m with reads := [] }
    | none => { m with reads := [] }
  | .xfer b r =>
    match m.window with
    | some w =>
      { m.transferEffect p w b with
        window := some { w with bytes := w.bytes ++ [(b, r)] }, reads := [] }
    | none => { m with reads := [] }
  | .rd pin _ =>
    { m with reads := Table.set m.reads pin.toNat ((Table.get m.reads pin.toNat).getD 0 + 1) }
  | .cfg _ _ => m
  | .dly _ => m
  | .dg _ => m

/-- The byte the environment returns to a transfer, `free` where the environment leaves it open (R16). -/
def Env.answerByte (p : Params) (free : Byte) (b : Byte) : Env → Byte
  | .unconstrained => free
  | .scripted [] _ => free
  | .scripted (r :: _) _ => r
  | .mock m => (m.answerByte p b).getD free

/-- The level the environment answers to a pin read, `free` where the environment leaves it open (R16). -/
def Env.answerLevel (free : Level) (pin : Pin) : Env → Level
  | .unconstrained => free
  | .scripted _ [] => free
  | .scripted _ (l :: _) => l
  | .mock m => (m.answerLevel pin).getD free

/-- How the environment takes notice of an event: a script drops the answer it has given, the mock follows
R40. -/
def Env.observe (p : Params) (e : Env) (ev : Event) : Env :=
  match e, ev with
  | .unconstrained, _ => .unconstrained
  | .scripted bytes levels, .xfer _ _ => .scripted (bytes.drop 1) levels
  | .scripted bytes levels, .rd _ _ => .scripted bytes (levels.drop 1)
  | .scripted bytes levels, .cfg _ _ => .scripted bytes levels
  | .scripted bytes levels, .wr _ _ => .scripted bytes levels
  | .scripted bytes levels, .dly _ => .scripted bytes levels
  | .scripted bytes levels, .dg _ => .scripted bytes levels
  | .mock m, ev => .mock (m.observe p ev)

end Sys2Proof.Machine
end

