-- ==== Sys2Proof/Machine/Ops.lean ====
section
/-! DEFINITION. The named operations over the state: the interface primitives of 00_scope.md R12, the
writes of engine state, engine reset (70_reset_and_hazards.md R220), and the two ends of an operation
(R14). There is no exception to take and none to return from (60_exceptions.md R190, R199, R200): a
condition is logged by `State.diagnose` and the next statement runs. -/

namespace Sys2Proof.Machine

/-- Perform an interface event: it enters the trace, acts on the pins, and the environment sees it
(R12, R60). -/
def State.emit (s : State) (ev : Event) : State :=
  { s with trace := s.trace ++ [ev], pins := s.pins.apply ev, env := s.env.observe s.params ev }

/-- Write the engine record: `E.f <- v` is `s.withEngine { s.engine with f := v }` (R11). -/
def State.withEngine (s : State) (e : Engine) : State := { s with engine := e }

/-- `E.phase <- ph` (R11, R24), also noted in the history of phases. -/
def State.setPhase (s : State) (ph : Phase) : State :=
  { s with engine := { s.engine with phase := ph }, phases := s.phases ++ [ph] }

/-- One more answer has been drawn from the environment (R16). -/
def State.drew (s : State) : State := { s with draws := s.draws + 1 }

/-- Note the result an operation returns (R14). -/
def State.returning (s : State) (r : Result) : State := { s with result := r }

/-- `PinCfg(p, d)` (R12). -/
def State.pinCfg (s : State) (p : Pin) (d : Dir) : State := s.emit (.cfg p d)

/-- `PinWrite(p, l)` (R12). -/
def State.pinWrite (s : State) (p : Pin) (l : Level) : State := s.emit (.wr p l)

/-- The level the environment answers to the next `PinRead(p)` (R16). -/
def State.levelAnswer (s : State) (p : Pin) : Level :=
  s.env.answerLevel (Config.freeLevel s.draws) p

/-- `l <- PinRead(p)` (R12). -/
def State.pinRead (s : State) (p : Pin) : Level × State :=
  (s.levelAnswer p, (s.emit (.rd p (s.levelAnswer p))).drew)

/-- The byte the environment returns to the next `Xfer(b)` (R16). -/
def State.byteAnswer (s : State) (b : Byte) : Byte :=
  s.env.answerByte s.params (Config.freeByte s.draws) b

/-- `r <- Xfer(b)` (R12). -/
def State.xfer (s : State) (b : Byte) : Byte × State :=
  (s.byteAnswer b, (s.emit (.xfer b (s.byteAnswer b))).drew)

/-- `RdByte()`, the pseudo-operation RDBYTE: `Xfer(RD_FILL)` (R12, R95). -/
def State.rdByte (s : State) : Byte × State := s.xfer Config.rdFill

/-- `Delay(ms)`: no state changes but the marker in the trace (R12, D33). -/
def State.delay (s : State) (ms : Nat) : State := s.emit (.dly ms)

/-- `diag Ev(info)`: append to `E.diag`, record `Dg`, go on (R191). -/
def State.diagnose (s : State) (d : Diag) : State :=
  (s.withEngine { s.engine with diag := s.engine.diag ++ [d] }).emit (.dg d)

/-- Open a transaction: `PinWrite(cs, 0); E.cs_held <- cs` (R29, R57). -/
def State.assertCs (s : State) (cs : Pin) : State :=
  let s1 := s.pinWrite cs .low
  s1.withEngine { s1.engine with csHeld := some cs }

/-- Close a transaction: `PinWrite(cs, 1); E.cs_held <- none` (R29, R57). -/
def State.releaseCs (s : State) (cs : Pin) : State :=
  let s1 := s.pinWrite cs .high
  s1.withEngine { s1.engine with csHeld := none }

/-- Engine reset (R220): the fields at the values of R43, then the bring-up pin configuration of R221. The
devices are touched by nothing else; the request is the platform's and ends with it (log entry 9). -/
def State.engineReset (s : State) : State :=
  (bringUpEvents s.params.pinmap).foldl State.emit
    { s with engine := .reset, resetIn := false, result := .none }

/-- An operation ends in *returns*, with its result and the new state (R14). -/
def State.finish (s : State) (r : Result) : Host.Outcome State Fault Refusal := .next (s.returning r)

/-- Once `E.released` is true every operation is refused with reason `Released` (R31, R196); otherwise the
operation runs. -/
def State.whenLive (s : State) (k : Host.Outcome State Fault Refusal) :
    Host.Outcome State Fault Refusal :=
  if s.engine.released then .refused .released else k

/-- Once in differential mode a channel read is refused with reason `UnsupportedMode`, before any event
(R170, R196). -/
def State.whenSingleEnded (s : State) (k : Host.Outcome State Fault Refusal) :
    Host.Outcome State Fault Refusal :=
  match s.engine.scanMode with
  | .singleEnded => k
  | .differential => .refused .unsupportedMode

/-- The bytes in which a result goes back to the host (R88). -/
def Result.toBytes : Result → List Byte
  | .none => []
  | .byte b => [b]
  | .word v => [v.extractLsb' 24 8, v.extractLsb' 16 8, v.extractLsb' 8 8, v.extractLsb' 0 8]
  | .words vs =>
    vs.flatMap fun v =>
      [v.extractLsb' 24 8, v.extractLsb' 16 8, v.extractLsb' 8 8, v.extractLsb' 0 8]
  | .frame st v ck =>
    [st, v.extractLsb' 24 8, v.extractLsb' 16 8, v.extractLsb' 8 8, v.extractLsb' 0 8, ck]

end Sys2Proof.Machine
end

