-- ==== Sys2Proof/Syntax.lean ====
section
/-! DEFINITION. The operations of the engine: one constructor per row of spec/opcode_table.json
(30_encoding.md R80, Table O; R90; wire rows R82 to R85 and R95). -/

namespace Sys2Proof

/-- One operation with its operands. The first fifteen are the host operations of Table O, in the order
of their ids; `reserved` is the row of the ids Table O leaves unassigned; the last six are the rows of the
wire layer, each with the chip-select pin of the window it stands in. -/
inductive Instr where
  /-- `WCMD cmd, cs` (R110). -/
  | wcmd (cmd : Byte) (cs : Pin)
  /-- `WREG reg, data, cs` (R111). -/
  | wreg (reg data : Byte) (cs : Pin)
  /-- `RREG reg, cs` (R112). -/
  | rreg (reg : Byte) (cs : Pin)
  /-- `CHKSUM value, rx` (R120). -/
  | chksum (value : Word) (rx : Byte)
  /-- `WAITRDY drdy` (R130). -/
  | waitrdy (drdy : Pin)
  /-- `CHIPID cs` (R140). -/
  | chipid (cs : Pin)
  /-- `CONFIG delay, rate, cs` (R142). -/
  | config (delay rate : Byte) (cs : Pin)
  /-- `INIT rate, cs` (R145). -/
  | init (rate : Byte) (cs : Pin)
  /-- `SETMODE mode`, with the operand byte as the request carries it (R146, R90; log entry 12). -/
  | setmode (mode : Byte)
  /-- `SELCH ch, cs` (R160). -/
  | selch (ch : Byte) (cs : Pin)
  /-- `FRAMERD cs` (R161). -/
  | framerd (cs : Pin)
  /-- `RDCHAN ch, cs, drdy` (R166). -/
  | rdchan (ch : Byte) (cs drdy : Pin)
  /-- `RDCHANS list, cs, drdy` (R180). -/
  | rdchans (list : List Byte) (cs drdy : Pin)
  /-- `RESETDEV rst` (R147). -/
  | resetdev (rst : Pin)
  /-- `SHUTDOWN` (R150). -/
  | shutdown
  /-- A request whose id byte is 0x00 or 0x10..0xFF (R90). -/
  | reserved (id : Byte)
  /-- Wire row `W-CMD`: one transfer of a command byte (R82). -/
  | wireCmd (cmd : Byte) (cs : Pin)
  /-- Wire row `STOP`, the pseudo-operation `WCMD CMD_STOP, cs` (R95). -/
  | stop (cs : Pin)
  /-- Wire row `START`, the pseudo-operation `WCMD CMD_START, cs` (R95). -/
  | start (cs : Pin)
  /-- Wire row `W-WREG`: a register write frame (R83). -/
  | wireWreg (reg data : Byte) (cs : Pin)
  /-- Wire row `W-RREG`: a register read frame (R84). -/
  | wireRreg (reg : Byte) (cs : Pin)
  /-- Wire row `W-FRAME`: the six-transfer sample frame (R85). -/
  | wireFrame (cs : Pin)
  deriving DecidableEq, Repr

/-- The two encoding layers of R81. -/
inductive Layer where
  | host
  | wire
  deriving DecidableEq, Repr

/-- The chip-select pin of the window a wire row stands in; a host operation has a request of its own
(R81, R95: a wire row has no host id). -/
def Instr.wirePin : Instr → Option Pin
  | .wcmd _ _ => none
  | .wreg _ _ _ => none
  | .rreg _ _ => none
  | .chksum _ _ => none
  | .waitrdy _ => none
  | .chipid _ => none
  | .config _ _ _ => none
  | .init _ _ => none
  | .setmode _ => none
  | .selch _ _ => none
  | .framerd _ => none
  | .rdchan _ _ _ => none
  | .rdchans _ _ _ => none
  | .resetdev _ => none
  | .shutdown => none
  | .reserved _ => none
  | .wireCmd _ cs => some cs
  | .stop cs => some cs
  | .start cs => some cs
  | .wireWreg _ _ cs => some cs
  | .wireRreg _ cs => some cs
  | .wireFrame cs => some cs

/-- The layer an operation is encoded in (R81). -/
def Instr.layer (i : Instr) : Layer :=
  match i.wirePin with
  | some _ => .wire
  | none => .host

end Sys2Proof
end

