-- ==== Sys2Proof/Machine/Checksum.lean ====
section
/-! DEFINITION. The sample-frame checksum verifier: CHKSUM (41_checksum.md R120). -/

namespace Sys2Proof.Machine

/-- CHKSUM: a pure function of its operands; no event, no state written but the result (R120). -/
def execChksum (value : Word) (rx : Byte) (s : State) : Host.Outcome State Fault Refusal :=
  s.whenLive (s.finish (.byte (checksum value rx)))

end Sys2Proof.Machine
end

