-- ==== Sys2Proof/Machine/Operands.lean ====
section
/-! DEFINITION. Operand assembly: every byte and word the engine computes from its operands
(30_encoding.md R86, R87; 20_memory.md R54). There are no addressing modes (20_memory.md R56, R64). -/

namespace Sys2Proof.Machine

/-- The first byte of a register write: the whole `reg` byte OR-ed in, nothing masked (R86). -/
def writeOpcode (p : Params) (reg : Byte) : Byte := p.opWreg ||| reg

/-- The first byte of a register read (R86). -/
def readOpcode (p : Params) (reg : Byte) : Byte := p.opRreg ||| reg

/-- A channel operand above `CH_MAX` is invalid (R91). -/
def channelValid (ch : Byte) : Bool := decide (ch.toNat ≤ Config.chMax)

/-- The byte written to the input-multiplexer register for a channel (R87). -/
def muxByte (ch : Byte) : Byte := (ch <<< 4) ||| Config.muxnCommon

/-- The 32-bit sample of four data bytes, the first the most significant, each zero-extended before its
shift (R54, R87). -/
def assembleSample (d3 d2 d1 d0 : Byte) : Word :=
  (d3.zeroExtend 32 <<< 24) ||| (d2.zeroExtend 32 <<< 16) ||| (d1.zeroExtend 32 <<< 8) |||
    d0.zeroExtend 32

/-- The sample a frame carries (R161). -/
def Frame.value (f : Frame) : Word := assembleSample f.d3 f.d2 f.d1 f.d0

/-- The scan mode a SETMODE operand byte names, `none` above 1 (R88, R90, R146). -/
def scanModeOf (mode : Byte) : Option ScanMode :=
  match mode.toNat with
  | 0 => some .singleEnded
  | 1 => some .differential
  | _ => none

end Sys2Proof.Machine
end

