-- ==== Sys2Proof/Machine/RegAccess.lean ====
section
/-! DEFINITION. Register access: WCMD, WREG, RREG (40_register_access.md R110 to R113), the wire rows of the
same transactions (30_encoding.md R82 to R84) and the pseudo-operations STOP and START (R95). -/

namespace Sys2Proof.Machine

/-- `WCMD(cmd, cs)`: one transfer in one window; the returned byte is discarded (R110). -/
def writeCommand (cmd : Byte) (cs : Pin) (s : State) : State :=
  let s1 := s.assertCs cs
  let x0 := s1.xfer cmd
  x0.2.releaseCs cs

/-- `WREG(reg, data, cs)`: opcode, count, data in one window; the returned bytes are discarded (R111). -/
def writeRegister (reg data : Byte) (cs : Pin) (s : State) : State :=
  let s1 := s.assertCs cs
  let x0 := s1.xfer (writeOpcode s.params reg)
  let x1 := x0.2.xfer Config.countOne
  let x2 := x1.2.xfer data
  x2.2.releaseCs cs

/-- `RREG(reg, cs)`: opcode, count, one byte read in one window (R112). -/
def readRegister (reg : Byte) (cs : Pin) (s : State) : Byte × State :=
  let s1 := s.assertCs cs
  let x0 := s1.xfer (readOpcode s.params reg)
  let x1 := x0.2.xfer Config.countOne
  let x2 := x1.2.rdByte
  (x2.1, x2.2.releaseCs cs)

/-- `STOP cs`: `WCMD CMD_STOP, cs` (R95). -/
def stopConversions (cs : Pin) (s : State) : State := writeCommand s.params.cmdStop cs s

/-- `START cs`: `WCMD CMD_START, cs` (R95). -/
def startConversions (cs : Pin) (s : State) : State := writeCommand s.params.cmdStart cs s

/-- WCMD (R110). -/
def execWcmd (cmd : Byte) (cs : Pin) (s : State) : Host.Outcome State Fault Refusal :=
  s.whenLive ((writeCommand cmd cs s).finish .none)

/-- WREG (R111). -/
def execWreg (reg data : Byte) (cs : Pin) (s : State) : Host.Outcome State Fault Refusal :=
  s.whenLive ((writeRegister reg data cs s).finish .none)

/-- RREG (R112). -/
def execRreg (reg : Byte) (cs : Pin) (s : State) : Host.Outcome State Fault Refusal :=
  s.whenLive ((readRegister reg cs s).2.finish (.byte (readRegister reg cs s).1))

/-- Wire row W-CMD: the window of R82, as WCMD performs it (R110). -/
def execWireCmd (cmd : Byte) (cs : Pin) (s : State) : Host.Outcome State Fault Refusal :=
  s.whenLive ((writeCommand cmd cs s).finish .none)

/-- Wire row STOP (R95, R110). -/
def execStop (cs : Pin) (s : State) : Host.Outcome State Fault Refusal :=
  s.whenLive ((stopConversions cs s).finish .none)

/-- Wire row START (R95, R110). -/
def execStart (cs : Pin) (s : State) : Host.Outcome State Fault Refusal :=
  s.whenLive ((startConversions cs s).finish .none)

/-- Wire row W-WREG: the window of R83, as WREG performs it (R111). -/
def execWireWreg (reg data : Byte) (cs : Pin) (s : State) : Host.Outcome State Fault Refusal :=
  s.whenLive ((writeRegister reg data cs s).finish .none)

/-- Wire row W-RREG: the window of R84, as RREG performs it (R112). -/
def execWireRreg (reg : Byte) (cs : Pin) (s : State) : Host.Outcome State Fault Refusal :=
  s.whenLive ((readRegister reg cs s).2.finish (.byte (readRegister reg cs s).1))

end Sys2Proof.Machine
end

