-- ==== Sys2Proof/Machine/Configurator.lean ====
section
/-! DEFINITION. The device configurator: CHIPID, CONFIG, INIT, SETMODE, RESETDEV, SHUTDOWN
(43_configurator.md R140 to R150). -/

namespace Sys2Proof.Machine

/-- `CHIPID(cs)`: read the identity register once, store the value, log success or failure (R140). -/
def chipIdCheck (cs : Pin) (s : State) : Byte × State :=
  let r := readRegister s.params.regId cs s
  let id := r.1 >>> s.params.idShift
  let s1 := r.2.withEngine { r.2.engine with chipId := r.2.engine.chipId.write cs.toNat id }
  (id, s1.diagnose (if id = Config.idExpected then .idOk cs id else .idMismatch cs id))

/-- Read a register back and log a mismatch with the value written, nothing else (R59, R142, R160). -/
def verifyRegister (reg written : Byte) (cs : Pin) (s : State) : State :=
  let r := readRegister reg cs s
  if r.1 = written then r.2 else r.2.diagnose (.cfgMismatch cs reg written r.1)

/-- One step of CONFIG: write, settle, read back (R142). -/
def configStep (reg val : Byte) (cs : Pin) (s : State) : State :=
  verifyRegister reg val cs ((writeRegister reg val cs s).delay Config.tSettleMs)

/-- The four steps of CONFIG in their fixed order (R142). -/
def configSteps (p : Params) (delay rate : Byte) : List (Byte × Byte) :=
  [(p.regMode2, p.mode2Value), (p.regRefmux, p.refmuxValue), (p.regMode0, delay), (p.regMode1, rate)]

/-- `CONFIG(delay, rate, cs)`: all four steps, whatever the read-backs return (R142). -/
def configure (delay rate : Byte) (cs : Pin) (s : State) : State :=
  (configSteps s.params delay rate).foldl (fun s1 step => configStep step.1 step.2 cs s1) s

/-- `INIT(rate, cs)`: identity check, stop, CONFIG with the fixed delay setting, and the rate recorded
(R145). -/
def initDevice (rate : Byte) (cs : Pin) (s : State) : State :=
  let s1 := stopConversions cs (chipIdCheck cs s).2
  let s2 := configure s1.params.delay35us rate cs s1
  s2.withEngine { s2.engine with rate := s2.engine.rate.write cs.toNat rate }

/-- `RESETDEV(rst)`: the pulse high, low, high, with a delay after each edge (R147). -/
def resetPulse (rst : Pin) (s : State) : State :=
  let s1 := (s.pinWrite rst .high).delay s.params.tResetMs
  let s2 := (s1.pinWrite rst .low).delay s.params.tResetMs
  (s2.pinWrite rst .high).delay s.params.tResetMs

/-- CHIPID (R140). -/
def execChipid (cs : Pin) (s : State) : Host.Outcome State Fault Refusal :=
  s.whenLive ((chipIdCheck cs s).2.finish (.byte (chipIdCheck cs s).1))

/-- CONFIG (R142). -/
def execConfig (delay rate : Byte) (cs : Pin) (s : State) : Host.Outcome State Fault Refusal :=
  s.whenLive ((configure delay rate cs s).finish .none)

/-- INIT: the result is 0 whatever happened (R145). -/
def execInit (rate : Byte) (cs : Pin) (s : State) : Host.Outcome State Fault Refusal :=
  s.whenLive ((initDevice rate cs s).finish (.byte 0x00))

/-- SETMODE: write the flag; an operand byte above 1 is refused with `BadOperand` (R146, R90). -/
def execSetmode (mode : Byte) (s : State) : Host.Outcome State Fault Refusal :=
  s.whenLive
    (match scanModeOf mode with
    | some m => (s.withEngine { s.engine with scanMode := m }).finish .none
    | none => .refused (.badOperand mode))

/-- RESETDEV (R147). -/
def execResetdev (rst : Pin) (s : State) : Host.Outcome State Fault Refusal :=
  s.whenLive ((resetPulse rst s).finish .none)

/-- SHUTDOWN: stop using the lines (R150). -/
def execShutdown (s : State) : Host.Outcome State Fault Refusal :=
  s.whenLive ((s.withEngine { s.engine with released := true }).finish .none)

/-- A request with a reserved id: refused with `ReservedOp`, no effect (R90, R196). -/
def execReserved (id : Byte) (s : State) : Host.Outcome State Fault Refusal :=
  s.whenLive (.refused (.reservedOp id))

end Sys2Proof.Machine
end

