-- ==== Sys2Proof/Machine/DataReady.lean ====
section
/-! DEFINITION. The data-ready poller with timeout: WAITRDY (42_data_ready.md R130 to R134). -/

namespace Sys2Proof.Machine

/-- The loop of R130. The number counts the rounds left to the recursion; `waitReady` gives one more than
the bound lets the loop take, so that its end is never what stops the loop. -/
def pollLoop (drdy : Pin) : Nat → State → State
  | 0, s => s
  | rounds + 1, s =>
    let r := s.pinRead drdy
    match r.1 with
    | .low => r.2
    | .high =>
      let s1 := r.2.withEngine { r.2.engine with poll := r.2.engine.poll + 1 }
      if s1.params.readyPollLimit ≤ s1.engine.poll then s1.diagnose (.readyTimeout drdy)
      else pollLoop drdy rounds s1

/-- `WAITRDY(drdy)`: poll until the line reads low or the bound is reached, and go on either way
(R130, R133). -/
def waitReady (drdy : Pin) (s : State) : State :=
  pollLoop drdy (s.params.readyPollLimit + 1) (s.withEngine { s.engine with poll := 0 })

/-- WAITRDY (R130). -/
def execWaitrdy (drdy : Pin) (s : State) : Host.Outcome State Fault Refusal :=
  s.whenLive ((waitReady drdy s).finish .none)

end Sys2Proof.Machine
end

