-- ==== Sys2Proof/Machine/Scanner.lean ====
section
/-! DEFINITION. The channel scanner, the framed read and the retry state machine: SELCH, FRAMERD, RDCHAN
(44_scanner.md R160 to R173) and the wire row W-FRAME (30_encoding.md R85). -/

namespace Sys2Proof.Machine

/-- `SELCH(ch, cs)`: for a valid channel, write the mux byte and read it back; otherwise nothing at all
(R160). -/
def selectChannel (ch : Byte) (cs : Pin) (s : State) : State :=
  if channelValid ch then
    verifyRegister s.params.regInpmux (muxByte ch) cs
      (writeRegister s.params.regInpmux (muxByte ch) cs s)
  else s

/-- `FRAMERD(cs)`: six reads in one window; the frame is stored and returned (R161). -/
def framedRead (cs : Pin) (s : State) : Frame × State :=
  let s1 := s.assertCs cs
  let st := s1.rdByte
  let d3 := st.2.rdByte
  let d2 := d3.2.rdByte
  let d1 := d2.2.rdByte
  let d0 := d1.2.rdByte
  let ck := d0.2.rdByte
  let f : Frame := { status := st.1, d3 := d3.1, d2 := d2.1, d1 := d1.1, d0 := d0.1, chk := ck.1 }
  let s2 := ck.2.releaseCs cs
  (f, s2.withEngine { s2.engine with frame := some f })

/-- One framed read of the retry loop: phase `Reading`, the read, the attempt counted (R166). -/
def attemptRead (cs : Pin) (s : State) : Frame × State :=
  let r := framedRead cs (s.setPhase .reading)
  (r.1, r.2.withEngine { r.2.engine with attempt := r.2.engine.attempt + 1 })

/-- The loop of R166, entered after the first wait. The number counts the rounds left to the recursion;
`readChannel` gives one more than `RETRY_LIMIT` lets the loop take, so that its end is never what stops the
loop. -/
def retryLoop (ch : Byte) (cs drdy : Pin) : Nat → State → Word × State
  | 0, s => (Config.failValue, s)
  | rounds + 1, s =>
    let r := attemptRead cs s
    if framePasses r.1.value r.1.chk then (r.1.value, (r.2.setPhase .valid).setPhase .idle)
    else
      let s1 := (r.2.setPhase .retrying).diagnose
        (.chkFail cs ch r.2.engine.attempt r.1.value r.1.chk)
      if Config.retryLimit ≤ s1.engine.attempt then
        (Config.failValue, ((s1.setPhase .failed).diagnose (.readFailed cs ch)).setPhase .idle)
      else retryLoop ch cs drdy rounds (waitReady drdy s1)

/-- A read of a valid channel after its stop command: select, start, wait, then the loop (R166, R167). -/
def convertAndRead (ch : Byte) (cs drdy : Pin) (s : State) : Word × State :=
  let s1 := startConversions cs (selectChannel ch cs (s.setPhase .selecting))
  let s2 := waitReady drdy ((s1.setPhase .converting).setPhase .waitingReady)
  retryLoop ch cs drdy (Config.retryLimit + 1) (s2.withEngine { s2.engine with attempt := 0 })

/-- `RDCHAN(ch, cs, drdy)` after its mode test: the stop command, then the channel test, which
short-circuits to 0 (R166, R169). -/
def readChannel (ch : Byte) (cs drdy : Pin) (s : State) : Word × State :=
  let s1 := stopConversions cs s
  if channelValid ch then convertAndRead ch cs drdy s1 else (Config.invalidChValue, s1)

/-- SELCH (R160). -/
def execSelch (ch : Byte) (cs : Pin) (s : State) : Host.Outcome State Fault Refusal :=
  s.whenLive ((selectChannel ch cs s).finish .none)

/-- FRAMERD: the result is the status byte, the sample and the check byte (R161). -/
def execFramerd (cs : Pin) (s : State) : Host.Outcome State Fault Refusal :=
  let r := framedRead cs s
  s.whenLive (r.2.finish (.frame r.1.status r.1.value r.1.chk))

/-- RDCHAN: refused in differential mode before any event, otherwise the read (R166, R170). -/
def execRdchan (ch : Byte) (cs drdy : Pin) (s : State) : Host.Outcome State Fault Refusal :=
  s.whenLive (s.whenSingleEnded
    ((readChannel ch cs drdy s).2.finish (.word (readChannel ch cs drdy s).1)))

/-- Wire row W-FRAME: the window of R85, as FRAMERD performs it (R161). -/
def execWireFrame (cs : Pin) (s : State) : Host.Outcome State Fault Refusal :=
  let r := framedRead cs s
  s.whenLive (r.2.finish (.frame r.1.status r.1.value r.1.chk))

end Sys2Proof.Machine
end

