-- ==== Sys2Proof/Machine/Orchestrator.lean ====
section
/-! DEFINITION. The multi-channel orchestrator: RDCHANS and the pseudo-operations SCANALL and SCANDEVS
(45_orchestrator.md R180 to R183; 30_encoding.md R95). -/

namespace Sys2Proof.Machine

/-- The loop of R180: one full channel read per entry, in list order, each value appended to `E.out`. -/
def scanLoop (cs drdy : Pin) : List Byte → State → State
  | [], s => s
  | ch :: rest, s =>
    let r := readChannel ch cs drdy s
    scanLoop cs drdy rest (r.2.withEngine
      { r.2.engine with out := r.2.engine.out ++ [r.1], idx := r.2.engine.idx + 1 })

/-- `RDCHANS(list, cs, drdy)` (R180). -/
def readChannels (list : List Byte) (cs drdy : Pin) (s : State) : State :=
  scanLoop cs drdy list (s.withEngine { s.engine with out := [], idx := 0 })

/-- RDCHANS: the empty list returns in either mode, a non-empty one is refused in differential mode, since
its first RDCHAN is (R170, R180, R196). -/
def execRdchans (list : List Byte) (cs drdy : Pin) (s : State) : Host.Outcome State Fault Refusal :=
  let t := readChannels list cs drdy s
  s.whenLive
    (match list with
    | [] => t.finish (.words t.engine.out)
    | _ :: _ => s.whenSingleEnded (t.finish (.words t.engine.out)))

/-- `SCANALL list, cs, drdy` is RDCHANS under the orchestrator's name (R95). -/
def scanAll (list : List Byte) (cs drdy : Pin) : Instr := .rdchans list cs drdy

/-- `SCANDEVS list, devices`: one RDCHANS per device, in the order given; the result is the sequence of the
per-device sequences, and a refusal of one refuses the whole (R95, R181). -/
def scanDevices (list : List Byte) :
    List (Pin × Pin) → State → Host.Outcome (List (List Word) × State) Fault Refusal
  | [], s => .next ([], s)
  | (cs, drdy) :: rest, s =>
    match execRdchans list cs drdy s with
    | .fault f => .fault f
    | .refused r => .refused r
    | .next t =>
      match scanDevices list rest t with
      | .fault f => .fault f
      | .refused r => .refused r
      | .next (vss, u) => .next (t.engine.out :: vss, u)

end Sys2Proof.Machine
end

