-- ==== Sys2Proof/Machine/Dispatch.lean ====
section
/-! DEFINITION. One arm per operation (30_encoding.md R80, R90; wire rows R82 to R85, R95). -/

namespace Sys2Proof.Machine

def exec (i : Instr) (s : State) : Host.Outcome State Fault Refusal :=
  match i with
  | .wcmd cmd cs => Sys2Proof.Machine.execWcmd cmd cs s
  | .wreg reg data cs => Sys2Proof.Machine.execWreg reg data cs s
  | .rreg reg cs => Sys2Proof.Machine.execRreg reg cs s
  | .chksum value rx => Sys2Proof.Machine.execChksum value rx s
  | .waitrdy drdy => Sys2Proof.Machine.execWaitrdy drdy s
  | .chipid cs => Sys2Proof.Machine.execChipid cs s
  | .config delay rate cs => Sys2Proof.Machine.execConfig delay rate cs s
  | .init rate cs => Sys2Proof.Machine.execInit rate cs s
  | .setmode mode => Sys2Proof.Machine.execSetmode mode s
  | .selch ch cs => Sys2Proof.Machine.execSelch ch cs s
  | .framerd cs => Sys2Proof.Machine.execFramerd cs s
  | .rdchan ch cs drdy => Sys2Proof.Machine.execRdchan ch cs drdy s
  | .rdchans list cs drdy => Sys2Proof.Machine.execRdchans list cs drdy s
  | .resetdev rst => Sys2Proof.Machine.execResetdev rst s
  | .shutdown => Sys2Proof.Machine.execShutdown s
  | .reserved id => Sys2Proof.Machine.execReserved id s
  | .wireCmd cmd cs => Sys2Proof.Machine.execWireCmd cmd cs s
  | .stop cs => Sys2Proof.Machine.execStop cs s
  | .start cs => Sys2Proof.Machine.execStart cs s
  | .wireWreg reg data cs => Sys2Proof.Machine.execWireWreg reg data cs s
  | .wireRreg reg cs => Sys2Proof.Machine.execWireRreg reg cs s
  | .wireFrame cs => Sys2Proof.Machine.execWireFrame cs s

end Sys2Proof.Machine
end

