-- ==== Sys2Proof/WellFormed.lean ====
section
/-! DEFINITION. Which terms of `Instr` are operations the encodings of 30_encoding.md can carry, and which
row each belongs to when rows overlap (R88 to R90, R93). -/

namespace Sys2Proof

/-- A host request is well formed when its mode byte is 0 or 1 (R88), its channel list fits the count byte
(R88), and a reserved id is one Table O leaves free (R90). A wire frame is well formed when its register
address has no bit in `CLASS_MASK` (R93); a command window is `W-CMD` when its byte is neither of the two
commands that have a row of their own (R95), and `START` when the two commands differ (R6). -/
def Instr.wellFormed (p : Params) : Instr → Bool
  | .wcmd _ _ => true
  | .wreg _ _ _ => true
  | .rreg _ _ => true
  | .chksum _ _ => true
  | .waitrdy _ => true
  | .chipid _ => true
  | .config _ _ _ => true
  | .init _ _ => true
  | .setmode mode => mode.toNat ≤ 1
  | .selch _ _ => true
  | .framerd _ => true
  | .rdchan _ _ _ => true
  | .rdchans list _ _ => list.length ≤ 255
  | .resetdev _ => true
  | .shutdown => true
  | .reserved id => id.toNat = 0 ∨ 16 ≤ id.toNat
  | .wireCmd cmd _ => cmd ≠ p.cmdStop ∧ cmd ≠ p.cmdStart
  | .stop _ => true
  | .start _ => p.cmdStart ≠ p.cmdStop
  | .wireWreg reg _ _ => reg &&& p.classMask = 0
  | .wireRreg reg _ => reg &&& p.classMask = 0
  | .wireFrame _ => true

end Sys2Proof
end

