-- ==== Sys2Proof/Decode.lean ====
section
/-! DEFINITION. Decoding and encoding of the host layer (30_encoding.md R88 to R90), of the wire layer
(R82 to R86, R93), and the host's numbered words (`decodeTableWord`). -/

namespace Sys2Proof

/-- What a stream of host bytes begins with. -/
inductive Decoded where
  /-- A whole request, and the bytes after it. A reserved id is a request of its one id byte
  (log entry 11); the operation then refuses it by name. -/
  | request (i : Instr) (rest : List Byte)
  /-- "A request shorter than its length is not a request (the engine waits for the rest)" (R90). -/
  | incomplete
  deriving DecidableEq, Repr

/-- Four bytes, most significant first, as a 32-bit operand (R88). -/
def wordOfBytes (b3 b2 b1 b0 : Byte) : Word := b3 ++ b2 ++ b1 ++ b0

/-- A 32-bit value as four bytes, most significant first (R88). -/
def bytesOfWord (v : Word) : List Byte :=
  [v.extractLsb' 24 8, v.extractLsb' 16 8, v.extractLsb' 8 8, v.extractLsb' 0 8]

/-- Operands of one byte. -/
def take1 (k : Byte → Instr) : List Byte → Decoded
  | a :: rest => .request (k a) rest
  | _ => .incomplete

/-- Operands of two bytes. -/
def take2 (k : Byte → Byte → Instr) : List Byte → Decoded
  | a :: b :: rest => .request (k a b) rest
  | _ => .incomplete

/-- Operands of three bytes. -/
def take3 (k : Byte → Byte → Byte → Instr) : List Byte → Decoded
  | a :: b :: c :: rest => .request (k a b c) rest
  | _ => .incomplete

/-- Operands of five bytes: a 32-bit value, most significant byte first, and a byte. -/
def takeValue (k : Word → Byte → Instr) : List Byte → Decoded
  | b3 :: b2 :: b1 :: b0 :: x :: rest => .request (k (wordOfBytes b3 b2 b1 b0) x) rest
  | _ => .incomplete

/-- The operands of RDCHANS: two pins, a count byte `n` and `n` channel bytes (R88, R89). -/
def takeList : List Byte → Decoded
  | cs :: drdy :: n :: rest =>
    if n.toNat ≤ rest.length then
      .request (.rdchans (rest.take n.toNat) cs drdy) (rest.drop n.toNat)
    else .incomplete
  | _ => .incomplete

/-- The operands after the id byte, by the table of R89. -/
def decodeOperands (id : Byte) (t : List Byte) : Decoded :=
  match id.toNat with
  | 0x01 => take2 .wcmd t
  | 0x02 => take3 .wreg t
  | 0x03 => take2 .rreg t
  | 0x04 => takeValue .chksum t
  | 0x05 => take1 .waitrdy t
  | 0x06 => take1 .chipid t
  | 0x07 => take3 .config t
  | 0x08 => take2 .init t
  | 0x09 => take1 .setmode t
  | 0x0A => take2 .selch t
  | 0x0B => take1 .framerd t
  | 0x0C => take3 .rdchan t
  | 0x0D => takeList t
  | 0x0E => take1 .resetdev t
  | 0x0F => .request .shutdown t
  | _ => .request (.reserved id) t

/-- Host layer: the operation a stream of request bytes begins with (R88 to R90). Total. -/
def decode : List Byte → Decoded
  | [] => .incomplete
  | id :: t => decodeOperands id t

/-- Wire layer: the row a chip-select window belongs to, from the bytes the engine sends in it, classified
as R93 says. A window of any other shape is no row's. -/
def decodeWire (p : Params) (cs : Pin) : List Byte → Option Instr
  | [b0] =>
    if b0 = p.cmdStop then some (.stop cs)
    else if b0 = p.cmdStart then some (.start cs)
    else some (.wireCmd b0 cs)
  | [b0, b1, b2] =>
    if b1 ≠ Config.countOne then none
    else if b0 &&& p.classMask = p.opWreg then some (.wireWreg (b0 &&& ~~~p.classMask) b2 cs)
    else if b0 &&& p.classMask = p.opRreg ∧ b2 = Config.rdFill then
      some (.wireRreg (b0 &&& ~~~p.classMask) cs)
    else none
  | [b0, b1, b2, b3, b4, b5] =>
    if [b0, b1, b2, b3, b4, b5].all (· = Config.rdFill) then some (.wireFrame cs) else none
  | _ => none

/-- The bytes of an operation in its own layer: the request of R89 for a host operation, the bytes sent in
its window for a wire row (R82 to R85). -/
def encode (p : Params) : Instr → List Byte
  | .wcmd cmd cs => [0x01, cmd, cs]
  | .wreg reg data cs => [0x02, reg, data, cs]
  | .rreg reg cs => [0x03, reg, cs]
  | .chksum value rx => 0x04 :: (bytesOfWord value ++ [rx])
  | .waitrdy drdy => [0x05, drdy]
  | .chipid cs => [0x06, cs]
  | .config delay rate cs => [0x07, delay, rate, cs]
  | .init rate cs => [0x08, rate, cs]
  | .setmode mode => [0x09, mode]
  | .selch ch cs => [0x0A, ch, cs]
  | .framerd cs => [0x0B, cs]
  | .rdchan ch cs drdy => [0x0C, ch, cs, drdy]
  | .rdchans list cs drdy => 0x0D :: cs :: drdy :: BitVec.ofNat 8 list.length :: list
  | .resetdev rst => [0x0E, rst]
  | .shutdown => [0x0F]
  | .reserved id => [id]
  | .wireCmd cmd _ => [cmd]
  | .stop _ => [p.cmdStop]
  | .start _ => [p.cmdStart]
  | .wireWreg reg data _ => [p.opWreg ||| reg, Config.countOne, data]
  | .wireRreg reg _ => [p.opRreg ||| reg, Config.countOne, Config.rdFill]
  | .wireFrame _ => List.replicate 6 Config.rdFill

/-- The `n` lowest bytes of `w`, lowest first. -/
def lowBytes : Nat → Nat → List Byte
  | 0, _ => []
  | n + 1, w => BitVec.ofNat 8 w :: lowBytes n (w / 256)

/-- The wire window a numbered word of spec/opcode_table.json stands for, if it is one: the table numbers
the three bytes of `W-WREG` and `W-RREG` with the first transfer in bits 23..16, and gives 48 bits to
`W-FRAME` alone. A word of eight bits is always a host id (log entry 7). -/
def tableWindow (nbits w : Nat) : Option (List Byte) :=
  let sent := (lowBytes (nbits / 8) w).reverse
  if nbits = 24 ∨ nbits = 48 then
    match decodeWire Params.p0 0 sent with
    | some _ => some sent
    | none => none
  else none

/-- The host bytes a numbered word stands for: its bytes, lowest first, then zeros up to the longest
request there is (RDCHANS with 255 channels, 259 bytes). -/
def tableBytes (nbits w : Nat) : List Byte :=
  lowBytes ((nbits + 7) / 8) w ++ List.replicate 259 0

/-- The operation the decoder reads from the numbered word `w` of `nbits` bits, every bit above them 0.
A wire window stands on pin 0, a row of the wire layer having no pin field. -/
def decodeTableWord (nbits w : Nat) : Option Instr :=
  match tableWindow nbits w with
  | some sent => decodeWire Params.p0 0 sent
  | none =>
    match decode (tableBytes nbits w) with
    | .request i _ => some i
    | .incomplete => none

/-- The mnemonic of an operation's row in spec/opcode_table.json (R80, Table O). -/
def Instr.mnemonic : Instr → String
  | .wcmd _ _ => "WCMD"
  | .wreg _ _ _ => "WREG"
  | .rreg _ _ => "RREG"
  | .chksum _ _ => "CHKSUM"
  | .waitrdy _ => "WAITRDY"
  | .chipid _ => "CHIPID"
  | .config _ _ _ => "CONFIG"
  | .init _ _ => "INIT"
  | .setmode _ => "SETMODE"
  | .selch _ _ => "SELCH"
  | .framerd _ => "FRAMERD"
  | .rdchan _ _ _ => "RDCHAN"
  | .rdchans _ _ _ => "RDCHANS"
  | .resetdev _ => "RESETDEV"
  | .shutdown => "SHUTDOWN"
  | .reserved _ => "(reserved)"
  | .wireCmd _ _ => "W-CMD"
  | .stop _ => "STOP"
  | .start _ => "START"
  | .wireWreg _ _ _ => "W-WREG"
  | .wireRreg _ _ => "W-RREG"
  | .wireFrame _ => "W-FRAME"

/-- A byte operand in decimal (R94). -/
def asmByte (b : Byte) : String := toString b.toNat

/-- The operands of an operation in the order of Table O, as R94 writes them. -/
def Instr.operands : Instr → List String
  | .wcmd cmd cs => [asmByte cmd, asmByte cs]
  | .wreg reg data cs => [asmByte reg, asmByte data, asmByte cs]
  | .rreg reg cs => [asmByte reg, asmByte cs]
  | .chksum value rx => [toString value.toNat, asmByte rx]
  | .waitrdy drdy => [asmByte drdy]
  | .chipid cs => [asmByte cs]
  | .config delay rate cs => [asmByte delay, asmByte rate, asmByte cs]
  | .init rate cs => [asmByte rate, asmByte cs]
  | .setmode mode => [asmByte mode]
  | .selch ch cs => [asmByte ch, asmByte cs]
  | .framerd cs => [asmByte cs]
  | .rdchan ch cs drdy => [asmByte ch, asmByte cs, asmByte drdy]
  | .rdchans list cs drdy =>
    ["[" ++ ",".intercalate (list.map asmByte) ++ "]", asmByte cs, asmByte drdy]
  | .resetdev rst => [asmByte rst]
  | .shutdown => []
  | .reserved id => [asmByte id]
  | .wireCmd cmd cs => [asmByte cmd, asmByte cs]
  | .stop cs => [asmByte cs]
  | .start cs => [asmByte cs]
  | .wireWreg reg data cs => [asmByte reg, asmByte data, asmByte cs]
  | .wireRreg reg cs => [asmByte reg, asmByte cs]
  | .wireFrame cs => [asmByte cs]

/-- One line of assembler text: the mnemonic, then the operands separated by commas (R94). -/
def Instr.asm (i : Instr) : String :=
  " ".intercalate (i.mnemonic :: (if i.operands = [] then [] else [", ".intercalate i.operands]))

end Sys2Proof
end

