-- ==== Sys2Proof/Machine/Fetch.lean ====
section
/-! DEFINITION. How the engine comes by its next operation: from the platform's reset, from a wire window
presented for itself, or from the host's request bytes (00_scope.md R8, R20; 30_encoding.md R88, R90, R93;
70_reset_and_hazards.md R220). There is no fetch from memory (20_memory.md R63). -/

namespace Sys2Proof.Machine

/-- What the next step does. -/
inductive Fetched where
  /-- Engine reset is asserted (R220). -/
  | reset
  /-- No whole request has been presented: "the engine waits for the rest" (R90), "waits for the first host
  operation" (R220). -/
  | wait
  /-- Run an operation, in the state its bytes have been taken from. -/
  | run (i : Instr) (s : State)
  /-- A wire window of no row's shape (R93). -/
  | noWireRow
  deriving DecidableEq, Repr

/-- What the next step does, and with which bytes taken from the inputs (log entries 5, 6 and 9). The spec has
no case of a wire window and request bytes presented together; that the window is served first, and the
request bytes left for a later step, is the model's choice (DESIGN CHOICE, log entry 22). A window of no row's
shape is no operation, so it is refused as such after SHUTDOWN too, and not as `Released` (DESIGN CHOICE, log
entry 6). -/
def State.fetch (s : State) : Fetched :=
  if s.resetIn then .reset
  else
    match s.wireIn with
    | some (cs, sent) =>
      match decodeWire s.params cs sent with
      | some i => .run i { s with wireIn := none }
      | none => .noWireRow
    | none =>
      match decode s.hostIn with
      | .request i rest => .run i { s with hostIn := rest }
      | .incomplete => .wait

/-- The state with the table word `w` as the only operation presented: its request bytes as the host's
input, or its window as the wire input (log entries 5 and 7). -/
def State.present (s : State) (nbits w : Nat) : State :=
  match tableWindow nbits w with
  | some sent => { s with resetIn := false, wireIn := some (0, sent) }
  | none =>
    match decode (tableBytes nbits w) with
    | .request i _ =>
      { s with resetIn := false, wireIn := none, hostIn := encode s.params i }
    | .incomplete => { s with resetIn := false, wireIn := none, hostIn := tableBytes nbits w }

end Sys2Proof.Machine
end

