-- ==== Sys2Proof/Machine/Step.lean ====
section
/-! DEFINITION. One step: one operation, to completion (00_scope.md R7, R8). -/

namespace Sys2Proof.Machine

/-- One step of the machine: engine reset if it is asserted, otherwise the operation presented, run to
completion; with no whole request presented the engine waits. A wire window of no row's shape is refused `noWireRow`, after
SHUTDOWN too (DESIGN CHOICE, log entry 6). -/
def step (s : State) : Host.Outcome State Fault Refusal :=
  match s.fetch with
  | .reset => .next s.engineReset
  | .wait => .next s
  | .run i t => exec i t
  | .noWireRow => .refused .noWireRow

/-- `s` with the operation of the table word `w` presented, so that the next step runs it. -/
def State.withFetchWord (s : State) (nbits w : Nat) : State := s.present nbits w

end Sys2Proof.Machine
end

