-- ==== Sys2Proof/Machine/Trace.lean ====
section
/-! DEFINITION. Reading a trace: its transactions (20_memory.md R57) and their decoding back into rows of the
wire layer (30_encoding.md R93). -/

namespace Sys2Proof.Machine

/-- Cut a trace at each `Wr(cs, 0)` ... `Wr(cs, 1)` pair (R93). The first argument is the window open so far.
A pulse with no transfer in it is no transaction (R57: "one or more"). -/
def cutWindows : Option Window → List Event → List Window
  | _, [] => []
  | _, .wr cs .low :: t => cutWindows (some { cs := cs, bytes := [] }) t
  | some w, .xfer b r :: t => cutWindows (some { w with bytes := w.bytes ++ [(b, r)] }) t
  | some w, .wr cs .high :: t =>
    if cs = w.cs ∧ w.bytes ≠ [] then w :: cutWindows none t else cutWindows none t
  | o, _ :: t => cutWindows o t

/-- The transactions of a trace, in order (R57). -/
def transactions (tr : List Event) : List Window := cutWindows none tr

/-- The bytes the engine sent in a window. -/
def Window.sent (w : Window) : List Byte := w.bytes.map Prod.fst

/-- The result a window carries for the row it belongs to: of a register read the third byte returned (R93),
of a sample frame its status byte, sample and check byte (R85, R161), of every other row nothing. -/
def Window.result (w : Window) : Instr → Result
  | .wcmd _ _ => .none
  | .wreg _ _ _ => .none
  | .rreg _ _ => .none
  | .chksum _ _ => .none
  | .waitrdy _ => .none
  | .chipid _ => .none
  | .config _ _ _ => .none
  | .init _ _ => .none
  | .setmode _ => .none
  | .selch _ _ => .none
  | .framerd _ => .none
  | .rdchan _ _ _ => .none
  | .rdchans _ _ _ => .none
  | .resetdev _ => .none
  | .shutdown => .none
  | .reserved _ => .none
  | .wireCmd _ _ => .none
  | .stop _ => .none
  | .start _ => .none
  | .wireWreg _ _ _ => .none
  | .wireRreg _ _ =>
    match w.bytes with
    | [_, _, x2] => .byte x2.2
    | _ => .none
  | .wireFrame _ =>
    match w.bytes with
    | [st, d3, d2, d1, d0, ck] => .frame st.2 (assembleSample d3.2 d2.2 d1.2 d0.2) ck.2
    | _ => .none

/-- The row of the wire layer a window belongs to, with the result it carries; `none` where it is no row's
(R93). -/
def decodeWindow (p : Params) (w : Window) : Option (Instr × Result) :=
  (decodeWire p w.cs w.sent).map fun i => (i, w.result i)

/-- The transactions of a trace, decoded back, in order (R93). -/
def decodeTrace (p : Params) (tr : List Event) : List (Option (Instr × Result)) :=
  (transactions tr).map (decodeWindow p)

/-- The diagnostic events of a trace, in order (R191). -/
def diagsOf (tr : List Event) : List Diag :=
  tr.filterMap fun
    | .dg d => some d
    | .cfg _ _ => none
    | .wr _ _ => none
    | .rd _ _ => none
    | .xfer _ _ => none
    | .dly _ => none

/-- How many answers the environment gives in a trace (R16). -/
def drawsOf : List Event → Nat
  | [] => 0
  | .xfer _ _ :: t => drawsOf t + 1
  | .rd _ _ :: t => drawsOf t + 1
  | .cfg _ _ :: t => drawsOf t
  | .wr _ _ :: t => drawsOf t
  | .dly _ :: t => drawsOf t
  | .dg _ :: t => drawsOf t

end Sys2Proof.Machine
end

