-- ==== Sys2Proof/Safety.lean ====
section
/-! DEFINITION. The terms claims are stated in: what it is for a run of events to be performed, what a
well-framed trace is (10_state.md R29, 20_memory.md R57, R62), which phases may follow each other
(44_scanner.md R167), the shapes of traces, and the invariants that hold between operations. -/

namespace Sys2Proof.Machine

/-! ### Runs of events -/

/-- The environment after it has seen a list of events. -/
def Env.observeAll (p : Params) (e : Env) (evs : List Event) : Env := evs.foldl (Env.observe p) e

/-- Every answer in the list is the one the environment gives at that place, `n` being the index of the next
free answer (R16, R60). -/
def Env.Answers (p : Params) : Env → Nat → List Event → Prop
  | _, _, [] => True
  | e, n, .xfer b r :: t =>
    r = e.answerByte p (Config.freeByte n) b ∧ Env.Answers p (e.observe p (.xfer b r)) (n + 1) t
  | e, n, .rd q l :: t =>
    l = e.answerLevel (Config.freeLevel n) q ∧ Env.Answers p (e.observe p (.rd q l)) (n + 1) t
  | e, n, .cfg q d :: t => Env.Answers p (e.observe p (.cfg q d)) n t
  | e, n, .wr q l :: t => Env.Answers p (e.observe p (.wr q l)) n t
  | e, n, .dly ms :: t => Env.Answers p (e.observe p (.dly ms)) n t
  | e, n, .dg d :: t => Env.Answers p (e.observe p (.dg d)) n t

/-- From `s` the events `evs` were performed, in this order and no others, with the environment's own
answers, and `t` is left: the trace has grown by them, the pins and the environment are as they leave them,
and the configuration and the inputs are untouched. What the engine record, the result and the phase history
of `t` are is not said. That the pins record a write to a pin that is no output is the model's choice (log
entry 23). -/
structure Ran (s t : State) (evs : List Event) : Prop where
  trace : t.trace = s.trace ++ evs
  pins : t.pins = s.pins.applyAll evs
  env : t.env = s.env.observeAll s.params evs
  answers : s.env.Answers s.params s.draws evs
  draws : t.draws = s.draws + drawsOf evs
  params : t.params = s.params
  hostIn : t.hostIn = s.hostIn
  wireIn : t.wireIn = s.wireIn
  resetIn : t.resetIn = s.resetIn

/-- `Ran`, and besides: the engine record of `t` is `e`, its result is `r`, and no phase was entered. -/
structure Performed (s t : State) (evs : List Event) (e : Engine) (r : Result) : Prop where
  ran : Ran s t evs
  engine : t.engine = e
  result : t.result = r
  phases : t.phases = s.phases

/-! ### Framing (R29, R57, R62) -/

/-- Where a trace stands with respect to the lines: none low, one low with nothing transferred yet, one low
inside a transaction, or one low inside a reset pulse. -/
inductive BusPhase where
  | idle
  | lowered (p : Pin)
  | transferring (p : Pin)
  | pulsed (p : Pin)
  deriving DecidableEq, Repr

/-- One event of a well-framed trace, `none` where framing forbids it: a transfer needs a line low; while a
line is low no other line is written, no pin is read or configured and no diagnostic is emitted; a window
holds transfers only, a reset pulse delays only (R29, R57, R147). -/
def BusPhase.next : BusPhase → Event → Option BusPhase
  | .idle, .wr p .low => some (.lowered p)
  | .idle, .xfer _ _ => none
  | .idle, _ => some .idle
  | .lowered p, .xfer _ _ => some (.transferring p)
  | .lowered p, .dly _ => some (.pulsed p)
  | .lowered _, _ => none
  | .transferring p, .xfer _ _ => some (.transferring p)
  | .transferring p, .wr q .high => if p = q then some .idle else none
  | .transferring _, _ => none
  | .pulsed p, .dly _ => some (.pulsed p)
  | .pulsed p, .wr q .high => if p = q then some .idle else none
  | .pulsed _, _ => none

/-- Run the framing automaton over a list of events. -/
def BusPhase.run : BusPhase → List Event → Option BusPhase
  | b, [] => some b
  | b, ev :: t =>
    match b.next ev with
    | some b1 => b1.run t
    | none => none

/-- A whole trace is well framed: it starts and ends with no line low, and every event in it keeps the
framing rules. -/
abbrev Framed (tr : List Event) : Prop := BusPhase.run .idle tr = some .idle

/-! ### Shapes of traces -/

/-- The events of one transaction (R57). -/
def windowEvents (cs : Pin) (bytes : List (Byte × Byte)) : List Event :=
  .wr cs .low :: (bytes.map fun x => .xfer x.1 x.2) ++ [.wr cs .high]

/-- The events of a register write whose transfers are answered by `r0`, `r1`, `r2` (R111). -/
def writeEvents (p : Params) (cs : Pin) (reg data r0 r1 r2 : Byte) : List Event :=
  windowEvents cs [(p.opWreg ||| reg, r0), (0x00, r1), (data, r2)]

/-- The events of a register read that returns `v` (R112). -/
def readEvents (p : Params) (cs : Pin) (reg r0 r1 v : Byte) : List Event :=
  windowEvents cs [(p.opRreg ||| reg, r0), (0x00, r1), (0x00, v)]

/-- The events of a framed read that receives `f` (R161). -/
def frameEvents (cs : Pin) (f : Frame) : List Event :=
  windowEvents cs [(0x00, f.status), (0x00, f.d3), (0x00, f.d2), (0x00, f.d1), (0x00, f.d0),
    (0x00, f.chk)]

/-- Transfer these bytes one after the other, whatever is answered. -/
def sendAll (bytes : List Byte) (s : State) : State := bytes.foldl (fun t b => (t.xfer b).2) s

/-- One transaction: the line asserted, the transfers, the line released (R29, R57). -/
def transact (cs : Pin) (bytes : List Byte) (s : State) : State :=
  (sendAll bytes (s.assertCs cs)).releaseCs cs

/-- The sum of the four bytes of a value as a natural, modulo 256 (R120). -/
def byteSumNat (value : Word) : Nat :=
  ((value.extractLsb' 0 8).toNat + (value.extractLsb' 8 8).toNat + (value.extractLsb' 16 8).toNat +
    (value.extractLsb' 24 8).toNat) % 256

/-- The expected check byte of R120 as a natural. -/
def expectedCheckNat (value : Word) : Nat := (byteSumNat value + 0x9B) % 256

/-- The six bytes of a frame in the order they are received (R85). -/
def Frame.bytes (f : Frame) : List Byte := [f.status, f.d3, f.d2, f.d1, f.d0, f.chk]

/-- The diagnostic of a read-back, if it differs from what was written (R142, R160). -/
def mismatchEvents (cs : Pin) (reg written readback : Byte) : List Event :=
  if readback = written then [] else [.dg (.cfgMismatch cs reg written readback)]

/-- The answers the environment gives in a register write and the read-back that follows it. -/
structure WriteBack where
  w0 : Byte
  w1 : Byte
  w2 : Byte
  r0 : Byte
  r1 : Byte
  readback : Byte
  deriving DecidableEq, Repr

/-- The events of one CONFIG step (R142). -/
def configStepEvents (p : Params) (cs : Pin) (reg val : Byte) (a : WriteBack) : List Event :=
  writeEvents p cs reg val a.w0 a.w1 a.w2 ++ [.dly 5] ++ readEvents p cs reg a.r0 a.r1 a.readback ++
    mismatchEvents cs reg val a.readback

/-- The events of a CONFIG (R142). -/
def configEvents (p : Params) (cs : Pin) (delay rate : Byte) (a b c d : WriteBack) : List Event :=
  configStepEvents p cs p.regMode2 p.mode2Value a ++
  configStepEvents p cs p.regRefmux p.refmuxValue b ++
  configStepEvents p cs p.regMode0 delay c ++
  configStepEvents p cs p.regMode1 rate d

/-- The diagnostic of an identity check (R140). -/
def identityDiag (cs : Pin) (id : Byte) : Diag := if id = 0x01 then .idOk cs id else .idMismatch cs id

/-- The events of an identity check whose register reads `v` (R140). -/
def identityEvents (p : Params) (cs : Pin) (r0 r1 v : Byte) : List Event :=
  readEvents p cs p.regId r0 r1 v ++ [.dg (identityDiag cs (v >>> p.idShift))]

/-- The events of a channel selection with a valid channel (R160). -/
def selectEvents (p : Params) (cs : Pin) (ch : Byte) (a : WriteBack) : List Event :=
  writeEvents p cs p.regInpmux ((ch <<< 4) ||| 0x0A) a.w0 a.w1 a.w2 ++
  readEvents p cs p.regInpmux a.r0 a.r1 a.readback ++
  mismatchEvents cs p.regInpmux ((ch <<< 4) ||| 0x0A) a.readback

/-- The bound of the poll loop as the loop of R130 takes it: at least one read is made. -/
def pollBound (p : Params) : Nat := max 1 p.readyPollLimit

/-- One wait: how many polls read high, and whether the bound was reached (R130). -/
structure Wait where
  highs : Nat
  timedOut : Bool
  deriving DecidableEq, Repr

/-- The waits R130 allows: fewer highs than the bound and then a low, or as many as the bound. -/
def Wait.Allowed (p : Params) (w : Wait) : Prop :=
  if w.timedOut then w.highs = pollBound p else w.highs < pollBound p

/-- The events of a wait (R130). -/
def waitEvents (drdy : Pin) (w : Wait) : List Event :=
  List.replicate w.highs (.rd drdy .high) ++
    (if w.timedOut then [.dg (.readyTimeout drdy)] else [.rd drdy .low])

/-- One round of a channel read: a wait and a framed read (R166). -/
structure ReadRound where
  wait : Wait
  frame : Frame
  deriving DecidableEq, Repr

/-- The frame's check byte is the one its data bytes ask for, as a sum of naturals (R120). -/
abbrev Frame.Good (f : Frame) : Prop :=
  f.chk.toNat = (f.d3.toNat + f.d2.toNat + f.d1.toNat + f.d0.toNat + 0x9B) % 256

/-- The events of the rounds of a channel read, `n` framed reads having been made before them: each round's
wait and framed read, and `ChkFail` with the number of the read where the frame fails (R166). -/
def roundsEvents (cs : Pin) (ch : Byte) (drdy : Pin) : Nat → List ReadRound → List Event
  | _, [] => []
  | n, r :: rest =>
    waitEvents drdy r.wait ++ frameEvents cs r.frame ++
      (if r.frame.Good then [] else [.dg (.chkFail cs ch (n + 1) r.frame.value r.frame.chk)]) ++
      roundsEvents cs ch drdy (n + 1) rest

/-- The rounds a channel read may consist of, `n` framed reads having been made before them, and the value
they return: every frame but the last fails; the last passes and its sample is the value, or it fails too,
`RETRY_LIMIT` reads have been made in all, and the value is the failure value (R166, R168). -/
structure RoundsReturn (p : Params) (n : Nat) (rounds : List ReadRound) (ok : Bool) (v : Word) :
    Prop where
  nonempty : rounds ≠ []
  most : n + rounds.length ≤ 50
  waits : ∀ r ∈ rounds, r.wait.Allowed p
  earlier : ∀ r ∈ rounds.dropLast, ¬ r.frame.Good
  last : ∀ r, rounds.getLast? = some r →
    if ok then r.frame.Good ∧ v = r.frame.value
    else ¬ r.frame.Good ∧ n + rounds.length = 50 ∧ v = 0xFFFFFFFF

/-- The end of a channel read: nothing more after a valid frame, `ReadFailed` after the last failure. -/
def endEvents (cs : Pin) (ch : Byte) (ok : Bool) : List Event :=
  if ok then [] else [.dg (.readFailed cs ch)]

/-- The phases of a read loop with this many framed reads (R167): `Reading` and `Retrying` for each that
fails, and the way out. -/
def loopPhases : Nat → Bool → List Phase
  | 0, _ => []
  | 1, ok => if ok then [.reading, .valid, .idle] else [.reading, .retrying, .failed, .idle]
  | n + 2, ok => .reading :: .retrying :: loopPhases (n + 1) ok

/-- The events of a channel read of a valid channel (R166). -/
def channelEvents (p : Params) (cs : Pin) (ch : Byte) (drdy : Pin) (x : Byte) (a : WriteBack) (y : Byte)
    (rs : List ReadRound) (ok : Bool) : List Event :=
  windowEvents cs [(p.cmdStop, x)] ++ selectEvents p cs ch a ++ windowEvents cs [(p.cmdStart, y)] ++
    roundsEvents cs ch drdy 0 rs ++ endEvents cs ch ok

/-- From `s` the channel `ch`, a valid one, was read through to the value `v`, and `t` is left: some answers
to the stop, select and start transactions, and some rounds that return `v`, make up all the events; the
engine record changes in `E.attempt`, `E.poll`, `E.frame`, `E.diag`, and in `E.cs_held` and `E.phase`, which
are as between operations; and the phases entered are those of R167 (R166). -/
def ChannelRead (s t : State) (ch : Byte) (cs drdy : Pin) (v : Word) : Prop :=
  ∃ (x : Byte) (a : WriteBack) (y : Byte) (rs : List ReadRound) (ok : Bool),
    RoundsReturn s.params 0 rs ok v ∧
    Ran s t (channelEvents s.params cs ch drdy x a y rs ok) ∧
    t.engine =
      { s.engine with
        csHeld := none
        phase := .idle
        attempt := rs.length
        poll := (rs.getLast?.map fun r => r.wait.highs).getD 0
        frame := rs.getLast?.map ReadRound.frame
        diag := s.engine.diag ++ diagsOf (channelEvents s.params cs ch drdy x a y rs ok) } ∧
    t.phases = s.phases ++ [.selecting, .converting, .waitingReady] ++ loopPhases rs.length ok

/-! ### The sequencer's transitions (R167) -/

/-- The transitions of R167's table, with the return to `Idle`. -/
def Phase.canStep : Phase → Phase → Bool
  | .idle, .selecting => true
  | .selecting, .converting => true
  | .converting, .waitingReady => true
  | .waitingReady, .reading => true
  | .reading, .valid => true
  | .reading, .retrying => true
  | .retrying, .reading => true
  | .retrying, .failed => true
  | .valid, .idle => true
  | .failed, .idle => true
  | _, _ => false

/-- A list of phases, each entered from the one before by a transition of R167, the first from `from0`; the
last is where the sequencer is left. -/
def phasePath : Phase → List Phase → Phase → Prop
  | from0, [], final => from0 = final
  | from0, ph :: t, final => from0.canStep ph = true ∧ phasePath ph t final

/-! ### Where the mock stores -/

/-- The address the reference mock stores to in a window of three or more transfers with this first byte,
if it takes it for a register write (R40). -/
def windowStore (p : Params) (cs : Pin) (first : Byte) : List Nat :=
  if first &&& p.classMask = p.opWreg then [regAddr cs (first &&& ~~~p.classMask)] else []

/-- The addresses a write and read-back of a register may store to. -/
def writeBackStores (p : Params) (cs : Pin) (reg : Byte) : List Nat :=
  windowStore p cs (writeOpcode p reg) ++ windowStore p cs (readOpcode p reg)

/-- The addresses a channel read may store to. -/
def channelStores (p : Params) (cs : Pin) (ch : Byte) : List Nat :=
  if channelValid ch then writeBackStores p cs p.regInpmux ++ windowStore p cs Config.rdFill else []

/-- Every `cs:reg` an operation may store to in the reference mock: where its windows have three or more
transfers, the address of the register their first byte writes (R40, R111). -/
def storeAddrs (p : Params) : Instr → List Nat
  | .wcmd _ _ => []
  | .wreg reg _ cs => windowStore p cs (writeOpcode p reg)
  | .rreg reg cs => windowStore p cs (readOpcode p reg)
  | .chksum _ _ => []
  | .waitrdy _ => []
  | .chipid cs => windowStore p cs (readOpcode p p.regId)
  | .config _ _ cs =>
    [p.regMode2, p.regRefmux, p.regMode0, p.regMode1].flatMap (writeBackStores p cs)
  | .init _ cs =>
    windowStore p cs (readOpcode p p.regId) ++
      [p.regMode2, p.regRefmux, p.regMode0, p.regMode1].flatMap (writeBackStores p cs)
  | .setmode _ => []
  | .selch ch cs => if channelValid ch then writeBackStores p cs p.regInpmux else []
  | .framerd cs => windowStore p cs Config.rdFill
  | .rdchan ch cs _ => channelStores p cs ch
  | .rdchans list cs _ => list.flatMap (channelStores p cs)
  | .resetdev _ => []
  | .shutdown => []
  | .reserved _ => []
  | .wireCmd _ _ => []
  | .stop _ => []
  | .start _ => []
  | .wireWreg reg _ cs => windowStore p cs (writeOpcode p reg)
  | .wireRreg reg cs => windowStore p cs (readOpcode p reg)
  | .wireFrame cs => windowStore p cs Config.rdFill

/-! ### What an operation may touch and emit -/

/-- The pins an operation may write: the chip-select line of its windows, or the reset line it pulses (R113,
R147, R204). -/
def writtenPins : Instr → List Pin
  | .wcmd _ cs => [cs]
  | .wreg _ _ cs => [cs]
  | .rreg _ cs => [cs]
  | .chksum _ _ => []
  | .waitrdy _ => []
  | .chipid cs => [cs]
  | .config _ _ cs => [cs]
  | .init _ cs => [cs]
  | .setmode _ => []
  | .selch _ cs => [cs]
  | .framerd cs => [cs]
  | .rdchan _ cs _ => [cs]
  | .rdchans _ cs _ => [cs]
  | .resetdev rst => [rst]
  | .shutdown => []
  | .reserved _ => []
  | .wireCmd _ cs => [cs]
  | .stop cs => [cs]
  | .start cs => [cs]
  | .wireWreg _ _ cs => [cs]
  | .wireRreg _ cs => [cs]
  | .wireFrame cs => [cs]

/-- The operations whose transactions are the engine's own sequences, not the host's choice of bytes
(R92). -/
def ownSequence : Instr → Bool
  | .chipid _ => true
  | .config _ _ _ => true
  | .init _ _ => true
  | .selch _ _ => true
  | .framerd _ => true
  | .rdchan _ _ _ => true
  | .rdchans _ _ _ => true
  | _ => false

/-- The first bytes of a transaction the engine emits from its own sequences (R92). -/
def ownFirstBytes (p : Params) : List Byte :=
  [p.cmdStop, p.cmdStart] ++
    ([p.regMode0, p.regMode1, p.regMode2, p.regRefmux, p.regInpmux].map (p.opWreg ||| ·)) ++
    ([p.regMode0, p.regMode1, p.regMode2, p.regRefmux, p.regInpmux, p.regId].map (p.opRreg ||| ·)) ++
    [0x00]

/-- The length of the result in bytes (R89); a wire row's is that of the operation of its shape. -/
def resultLength : Instr → Nat
  | .wcmd _ _ => 0
  | .wreg _ _ _ => 0
  | .rreg _ _ => 1
  | .chksum _ _ => 1
  | .waitrdy _ => 0
  | .chipid _ => 1
  | .config _ _ _ => 0
  | .init _ _ => 1
  | .setmode _ => 0
  | .selch _ _ => 0
  | .framerd _ => 6
  | .rdchan _ _ _ => 4
  | .rdchans list _ _ => 4 * list.length
  | .resetdev _ => 0
  | .shutdown => 0
  | .reserved _ => 0
  | .wireCmd _ _ => 0
  | .stop _ => 0
  | .start _ => 0
  | .wireWreg _ _ _ => 0
  | .wireRreg _ _ => 1
  | .wireFrame _ => 6

/-- The fewest and the most events an operation of fixed shape performs, under a poll bound of the given
parameters (R245 and the trace counts of the operations' rules); nothing is said of the reads. -/
def eventCount (p : Params) : Instr → Option (Nat × Nat)
  | .wcmd _ _ => some (3, 3)
  | .wreg _ _ _ => some (5, 5)
  | .rreg _ _ => some (5, 5)
  | .chksum _ _ => some (0, 0)
  | .waitrdy _ => some (1, pollBound p + 1)
  | .chipid _ => some (6, 6)
  | .config _ _ _ => some (44, 48)
  | .init _ _ => some (53, 57)
  | .setmode _ => some (0, 0)
  | .selch ch _ => if channelValid ch then some (10, 11) else some (0, 0)
  | .framerd _ => some (8, 8)
  | .rdchan ch _ _ => if channelValid ch then none else some (3, 3)
  | .rdchans _ _ _ => none
  | .resetdev _ => some (6, 6)
  | .shutdown => some (0, 0)
  | .reserved _ => none
  | .wireCmd _ _ => some (3, 3)
  | .stop _ => some (3, 3)
  | .start _ => some (3, 3)
  | .wireWreg _ _ _ => some (5, 5)
  | .wireRreg _ _ => some (5, 5)
  | .wireFrame _ => some (8, 8)

/-! ### Invariants between operations -/

/-- Between operations no line is held and the sequencer is idle (R24, R29). -/
abbrev State.Quiescent (s : State) : Prop := s.engine.csHeld = none ∧ s.engine.phase = .idle

/-- The counters are in their ranges (R25, R26, R27); the poll counter's is that of a loop that makes at least
one read. -/
abbrev State.CountersInRange (s : State) : Prop :=
  s.engine.attempt ≤ Config.retryLimit ∧ s.engine.poll ≤ pollBound s.params ∧
    s.engine.idx = s.engine.out.length

/-- The environment's tables are in canonical form. -/
abbrev Env.Canonical : Env → Prop
  | .unconstrained => True
  | .scripted _ _ => True
  | .mock m =>
    m.regs.wf = true ∧ Table.wf m.frames = true ∧ Table.wf m.frameRepeat = true ∧
      Table.wf m.ready = true ∧ Table.wf m.reads = true

/-- Every table of the state is in canonical form, so that equal maps are equal data. -/
abbrev State.Canonical (s : State) : Prop :=
  s.engine.rate.wf = true ∧ s.engine.chipId.wf = true ∧ Table.wf s.pins.dir = true ∧
    Table.wf s.pins.out = true ∧ s.env.Canonical

/-- Between operations no pin the engine has written is low: every chip-select and reset line rests high
(R32). For a pin that is no output this is about the model's own record of the write (log entry 23). -/
def State.LinesHigh (s : State) : Prop := ∀ q : Nat, Table.get s.pins.out q ≠ some .low

/-- The operations that are refused in a state, and with which reason (R196). -/
def refusalOf (i : Instr) (s : State) : Option Refusal :=
  if s.engine.released then some .released
  else
    match i with
    | .wcmd _ _ => none
    | .wreg _ _ _ => none
    | .rreg _ _ => none
    | .chksum _ _ => none
    | .waitrdy _ => none
    | .chipid _ => none
    | .config _ _ _ => none
    | .init _ _ => none
    | .setmode mode => if 1 < mode.toNat then some (.badOperand mode) else none
    | .selch _ _ => none
    | .framerd _ => none
    | .rdchan _ _ _ => if s.engine.scanMode = .differential then some .unsupportedMode else none
    | .rdchans list _ _ =>
      if s.engine.scanMode = .differential ∧ list ≠ [] then some .unsupportedMode else none
    | .resetdev _ => none
    | .shutdown => none
    | .reserved id => some (.reservedOp id)
    | .wireCmd _ _ => none
    | .stop _ => none
    | .start _ => none
    | .wireWreg _ _ _ => none
    | .wireRreg _ _ => none
    | .wireFrame _ => none

end Sys2Proof.Machine
end

