-- ==== Sys2Proof/Certificates/Slice0/Obligations.lean ====
section
/-! DEFINITION. The statements for the provers, each a formalisation of rules of spec/ over all states,
operands, parameter sets and answers of the environment. -/

open Sys2Proof Sys2Proof.Machine

/-! ### Encoding -/

/-- R88 to R90: decoding the request of a well-formed host operation, whatever bytes follow it, gives the
operation back and leaves the bytes that follow. The byte format is the spec's own (decision D2); log entries
11 and 12. -/
def Obligations.DecodeOfEncodeHost : Prop :=
  ∀ (p : Params) (i : Instr) (rest : List Byte), i.layer = .host → i.wellFormed p = true →
    decode (encode p i ++ rest) = .request i rest

/-- R88, R89: the bytes a request was decoded from are its encoding, so no two byte strings are one request
and no bit of a request is dropped. The byte format is the spec's own (decision D2); log entry 11. -/
def Obligations.EncodeOfDecodeHost : Prop :=
  ∀ (p : Params) (bytes : List Byte) (i : Instr) (rest : List Byte),
    decode bytes = .request i rest → i.layer = .host ∧ encode p i ++ rest = bytes

/-- R82 to R86, R93: decoding the window of a well-formed row of the wire layer gives the row back, for every
parameter set whose opcode patterns have zero address bits and differ. R93 is derived by the spec from R82 to
R86; which row a one-byte window is: log entry 6. -/
def Obligations.DecodeOfEncodeWire : Prop :=
  ∀ (p : Params) (cs : Pin) (i : Instr), p.WireWF → i.wirePin = some cs → i.wellFormed p = true →
    decodeWire p cs (encode p i) = some i

/-- R88, R90: "A request shorter than its length is not a request": no proper beginning of a request is
decoded as one. The byte format is the spec's own (decision D2). -/
def Obligations.TruncatedRequestIsIncomplete : Prop :=
  ∀ (p : Params) (i : Instr) (n : Nat), i.layer = .host → i.wellFormed p = true →
    n < (encode p i).length → decode ((encode p i).take n) = .incomplete

/-- Words of 95_test_vectors.md (B1 to B7), and wire windows under P0, decode to what they stand for. The wire
bytes are those of P0 (log entry 1); the reserved request's length is log entry 11. Two clauses are the
model's choice and no rule's (log entry 6): that the one-byte window 0x0A is the row STOP, which R93 calls
W-CMD, and that the window 0x66 0x00 0x11, which R93 does not classify, is no row's. -/
def Obligations.SpecWordsDecode : Prop :=
  decode [0x01, 0x0A, 0x16] = .request (.wcmd 0x0A 22) [] ∧
  decode [0x02, 0x06, 0x7A, 0x16] = .request (.wreg 0x06 0x7A 22) [] ∧
  decode [0x04, 0x12, 0x34, 0x56, 0x78, 0xAF] = .request (.chksum 0x12345678 0xAF) [] ∧
  decode [0x07, 0x03, 0x0F, 0x16] = .request (.config 0x03 0x0F 22) [] ∧
  decode [0x0C, 0x07, 0x16, 0x11] = .request (.rdchan 7 22 17) [] ∧
  decode [0x0D, 0x16, 0x11, 0x03, 0x00, 0xC8, 0x0A, 0x0F] =
    .request (.rdchans [0, 200, 10] 22 17) [0x0F] ∧
  decode [0x10, 0x00, 0x00] = .request (.reserved 0x10) [0x00, 0x00] ∧
  decodeWire .p0 22 [0x0A] = some (.stop 22) ∧
  decodeWire .p0 22 [0x46, 0x00, 0x7A] = some (.wireWreg 0x06 0x7A 22) ∧
  decodeWire .p0 22 [0x26, 0x00, 0x00] = some (.wireRreg 0x06 22) ∧
  decodeWire .p0 22 [0x66, 0x00, 0x11] = none

/-! ### Steps -/

/-- R8: when no reset is asserted and no wire window is presented, and the host's bytes begin with a request,
the step is that operation, on the state from which its bytes have been taken. Where the bytes come from is
the model's choice (log entry 5). -/
def Obligations.StepRunsPresentedRequest : Prop :=
  ∀ (s : State) (i : Instr) (rest : List Byte), s.resetIn = false → s.wireIn = none →
    decode s.hostIn = .request i rest → step s = exec i { s with hostIn := rest }

/-- R93 (log entry 6): when a wire window is presented and is some row's, the step is that row's operation, on
the state from which the window has been taken; a window of any other shape is refused. Host bytes presented
beside it are left for a later step (log entry 22). That the refusal is `noWireRow` after SHUTDOWN too is log
entry 6. -/
def Obligations.StepRunsPresentedWindow : Prop :=
  ∀ (s : State) (cs : Pin) (sent : List Byte), s.resetIn = false → s.wireIn = some (cs, sent) →
    (∀ i, decodeWire s.params cs sent = some i → step s = exec i { s with wireIn := none }) ∧
    (decodeWire s.params cs sent = none → step s = .refused .noWireRow)

/-- R90, R220: with no whole request presented the engine waits: nothing changes. That waiting is a step that
changes nothing is the model's choice (log entry 5). -/
def Obligations.StepWaitsForWholeRequest : Prop :=
  ∀ s : State, s.resetIn = false → s.wireIn = none → decode s.hostIn = .incomplete → step s = .next s

/-- R220, R221, R31: a step with reset asserted leaves every engine field at its reset value, released or not,
and performs the bring-up pin configuration, five events for each entry of `PINMAP` in list order; the result
is cleared (log entry 9); the configuration, the presented operations (log entry 9) and the environment but
for those events are untouched. The values and the bring-up are the spec's decisions D6 and D21 (log
entry 2); that a write to a pin that is no output is recorded is the model's choice (log entry 23). -/
def Obligations.StepTakesEngineReset : Prop :=
  ∀ (s : State) (evs : List Event), s.resetIn = true →
    evs = s.params.pinmap.flatMap (fun d =>
      [.cfg d.rst .output, .cfg d.cs .output, .cfg d.drdy .input, .wr d.cs .high, .wr d.rst .high]) →
    ∃ t, step s = .next t ∧
      t.engine = { scanMode := .singleEnded, rate := [], chipId := [], phase := .idle, attempt := 0,
                   poll := 0, idx := 0, out := [], frame := none, csHeld := none, diag := [],
                   released := false } ∧
      t.trace = s.trace ++ evs ∧ t.pins = s.pins.applyAll evs ∧
      t.env = s.env.observeAll s.params evs ∧ t.result = .none ∧
      t.params = s.params ∧ t.hostIn = s.hostIn ∧ t.wireIn = s.wireIn ∧ t.resetIn = false ∧
      t.draws = s.draws ∧ t.phases = s.phases

/-! ### Reset -/

/-- R43, R220, R221, with the model's choices of log entries 1, 3, 5, 6, 8, 9, 23: all eleven fields of the state
after reset, for every parameter set, the bring-up events written out in the order of R221; and that the
engine then waits. The values and the bring-up are the spec's decisions D6 and D21 (log entry 2). -/
def Obligations.ResetLeavesTableSValues : Prop :=
  State.reset = State.resetWith Params.p0 ∧
  ∀ (p : Params) (evs : List Event),
    evs = p.pinmap.flatMap (fun d =>
      [.cfg d.rst .output, .cfg d.cs .output, .cfg d.drdy .input, .wr d.cs .high, .wr d.rst .high]) →
    (State.resetWith p).params = p ∧
    (State.resetWith p).engine =
      { scanMode := .singleEnded, rate := [], chipId := [], phase := .idle, attempt := 0, poll := 0,
        idx := 0, out := [], frame := none, csHeld := none, diag := [], released := false } ∧
    (State.resetWith p).pins = Pins.applyAll { dir := [], out := [] } evs ∧
    (State.resetWith p).env = .unconstrained ∧ (State.resetWith p).hostIn = [] ∧
    (State.resetWith p).wireIn = none ∧ (State.resetWith p).resetIn = false ∧
    (State.resetWith p).result = .none ∧ (State.resetWith p).trace = evs ∧
    (State.resetWith p).phases = [] ∧ (State.resetWith p).draws = 0 ∧
    step (State.resetWith p) = .next (State.resetWith p)

/-- R221, R32: after reset every chip-select and reset line of `PINMAP` is high; it is an output if it is no
device's data-ready line, and a data-ready line is an input if it is no device's other line. The bring-up is
the spec's decision D21 (log entry 2); that the level is recorded also where the pin is no output is the model's
choice (log entry 23). -/
def Obligations.BringUpSetsIdleLevels : Prop :=
  ∀ (p : Params) (d : DevicePins), d ∈ p.pinmap →
    Table.get (State.resetWith p).pins.out d.cs.toNat = some .high ∧
    Table.get (State.resetWith p).pins.out d.rst.toNat = some .high ∧
    ((∀ e ∈ p.pinmap, e.drdy ≠ d.cs) →
      Table.get (State.resetWith p).pins.dir d.cs.toNat = some .output) ∧
    ((∀ e ∈ p.pinmap, e.drdy ≠ d.rst) →
      Table.get (State.resetWith p).pins.dir d.rst.toNat = some .output) ∧
    ((∀ e ∈ p.pinmap, e.cs ≠ d.drdy ∧ e.rst ≠ d.drdy) →
      Table.get (State.resetWith p).pins.dir d.drdy.toNat = some .input)

/-! ### Register access -/

/-- R110: WCMD is one transfer of the command byte in one window, any command byte, the returned byte
discarded; nothing else of the engine changes; it is refused only after SHUTDOWN. The last encoding is the
rule's own example, at P0 (log entry 1). -/
def Obligations.WcmdPerformsCommandWindow : Prop :=
  ∀ (cmd : Byte) (cs : Pin) (rest : List Byte) (s : State),
    decode (0x01 :: cmd :: cs :: rest) = .request (.wcmd cmd cs) rest ∧
    encode s.params (.wireCmd cmd cs) = [cmd] ∧ encode .p0 (.stop 22) = [0x0A] ∧
    (s.engine.released = true → exec (.wcmd cmd cs) s = .refused .released) ∧
    (s.engine.released = false → ∃ (r0 : Byte) (t : State), exec (.wcmd cmd cs) s = .next t ∧
      Performed s t [.wr cs .low, .xfer cmd r0, .wr cs .high] { s.engine with csHeld := none } .none)

/-- R111: WREG is the opcode byte with the whole register byte OR-ed in, the count byte 0x00 and the data
byte, in one window; the returned bytes are discarded. The last encoding is the rule's own example, at P0 (log
entry 1). -/
def Obligations.WregPerformsWriteWindow : Prop :=
  ∀ (reg data : Byte) (cs : Pin) (rest : List Byte) (s : State),
    decode (0x02 :: reg :: data :: cs :: rest) = .request (.wreg reg data cs) rest ∧
    encode s.params (.wireWreg reg data cs) = [s.params.opWreg ||| reg, 0x00, data] ∧
    encode .p0 (.wireWreg 0x06 0x7A 22) = [0x46, 0x00, 0x7A] ∧
    (s.engine.released = true → exec (.wreg reg data cs) s = .refused .released) ∧
    (s.engine.released = false → ∃ (r0 r1 r2 : Byte) (t : State), exec (.wreg reg data cs) s = .next t ∧
      Performed s t
        [.wr cs .low, .xfer (s.params.opWreg ||| reg) r0, .xfer 0x00 r1, .xfer data r2, .wr cs .high]
        { s.engine with csHeld := none } .none)

/-- R112: RREG is the opcode byte with the whole register byte OR-ed in, the count byte 0x00 and a read, in
one window, and returns the byte the environment gave in the third transfer, whichever it is; against the
reference mock under P0 with 0x7A in register 0x06 of pin 22 it returns 0x7A with the trace of the rule's
example. The example is the rule's own, at P0 and against the mock (log entries 1 and 4); a script stands for
any environment (log entry 3). -/
def Obligations.RregReturnsThirdAnswer : Prop :=
  (∀ (reg : Byte) (cs : Pin) (rest : List Byte) (s : State),
    decode (0x03 :: reg :: cs :: rest) = .request (.rreg reg cs) rest ∧
    encode s.params (.wireRreg reg cs) = [s.params.opRreg ||| reg, 0x00, 0x00] ∧
    (s.engine.released = true → exec (.rreg reg cs) s = .refused .released) ∧
    (s.engine.released = false → ∃ (r0 r1 v : Byte) (t : State), exec (.rreg reg cs) s = .next t ∧
      Performed s t
        [.wr cs .low, .xfer (s.params.opRreg ||| reg) r0, .xfer 0x00 r1, .xfer 0x00 v, .wr cs .high]
        { s.engine with csHeld := none } (.byte v))) ∧
  (∀ (reg : Byte) (cs : Pin) (r0 r1 v : Byte) (bytes : List Byte) (levels : List Level) (s : State),
    s.engine.released = false → s.env = .scripted (r0 :: r1 :: v :: bytes) levels →
    ∃ t, exec (.rreg reg cs) s = .next t ∧ t.result = .byte v ∧ t.env = .scripted bytes levels) ∧
  (∀ (s : State) (m : Mock), s.engine.released = false → s.params = .p0 → s.env = .mock m →
    m.regs.read (regAddr 22 0x06) = some 0x7A →
    ∃ t, exec (.rreg 0x06 22) s = .next t ∧ t.result = .byte 0x7A ∧
      t.trace = s.trace ++
        [.wr 22 .low, .xfer 0x26 0x00, .xfer 0x00 0x00, .xfer 0x00 0x7A, .wr 22 .high])

/-- R82, R95, R110 (log entry 6): the command rows of the wire layer are the same window: W-CMD with its byte,
STOP with `CMD_STOP`, START with `CMD_START`. -/
def Obligations.WireCommandRowsPerformTheirWindow : Prop :=
  ∀ (cmd : Byte) (cs : Pin) (s : State), s.engine.released = false →
    (∃ (r0 : Byte) (t : State), exec (.wireCmd cmd cs) s = .next t ∧
      Performed s t (windowEvents cs [(cmd, r0)]) { s.engine with csHeld := none } .none) ∧
    (∃ (r0 : Byte) (t : State), exec (.stop cs) s = .next t ∧
      Performed s t (windowEvents cs [(s.params.cmdStop, r0)]) { s.engine with csHeld := none } .none) ∧
    (∃ (r0 : Byte) (t : State), exec (.start cs) s = .next t ∧
      Performed s t (windowEvents cs [(s.params.cmdStart, r0)]) { s.engine with csHeld := none } .none)

/-- R83 to R85, R93 (log entry 6): the three- and six-transfer rows of the wire layer are the windows of WREG,
RREG and FRAMERD, with their results and the frame stored; and the trace of any well-formed wire row decodes
back to that row with its result, that of a register read being the third byte returned. R93 is derived by the
spec from R82 to R86; the frame's result in a decoded trace is R85's and R161's. -/
def Obligations.WireFrameRowsPerformTheirWindow : Prop :=
  (∀ (reg data : Byte) (cs : Pin) (s : State), s.engine.released = false →
    (∃ (r0 r1 r2 : Byte) (t : State), exec (.wireWreg reg data cs) s = .next t ∧
      Performed s t (writeEvents s.params cs reg data r0 r1 r2) { s.engine with csHeld := none } .none) ∧
    (∃ (r0 r1 v : Byte) (t : State), exec (.wireRreg reg cs) s = .next t ∧
      Performed s t (readEvents s.params cs reg r0 r1 v) { s.engine with csHeld := none } (.byte v)) ∧
    (∃ (f : Frame) (t : State), exec (.wireFrame cs) s = .next t ∧
      Performed s t (frameEvents cs f) { s.engine with csHeld := none, frame := some f }
        (.frame f.status (f.d3 ++ f.d2 ++ f.d1 ++ f.d0) f.chk))) ∧
  (∀ (i : Instr) (cs : Pin) (s : State), s.engine.released = false → s.params.WireWF →
    i.wirePin = some cs → i.wellFormed s.params = true →
    ∃ (t : State) (evs : List Event), exec i s = .next t ∧ t.trace = s.trace ++ evs ∧
      decodeTrace s.params evs = [some (i, t.result)])

/-- R114: against the reference mock, writing a byte to a register and reading the register back returns the
byte, for every register address without class bits. The mock is the spec's decision D25 (log entry 4). -/
def Obligations.MockRegisterRoundTrip : Prop :=
  ∀ (s : State) (m : Mock) (reg b : Byte) (cs : Pin), s.engine.released = false → s.params.WireWF →
    s.env = .mock m → reg &&& s.params.classMask = 0 →
    ∃ t u, exec (.wreg reg b cs) s = .next t ∧ exec (.rreg reg cs) t = .next u ∧ u.result = .byte b

/-! ### Memory of the reference mock: the frame of every operation -/

/-- R40, R50: against the reference mock an operation changes no device register but those at the addresses
its register-write windows name. The mock is the spec's decision D25 (log entry 4). -/
def Obligations.MockRegistersOutsideStoresUnchanged : Prop :=
  ∀ (i : Instr) (s t : State) (m : Mock), s.env = .mock m → exec i s = .next t →
    ∃ m' : Mock, t.env = .mock m' ∧
      ∀ a : Nat, a ∉ storeAddrs s.params i → m'.regs.read a = m.regs.read a

/-- R40, R83, R111: against the reference mock WREG stores its data byte at the address its first byte writes,
and only there. The mock is the spec's decision D25 (log entry 4). -/
def Obligations.MockWregStoresDataByte : Prop :=
  ∀ (reg data : Byte) (cs : Pin) (s : State) (m : Mock), s.engine.released = false → s.env = .mock m →
    ∃ (t : State) (m' : Mock), exec (.wreg reg data cs) s = .next t ∧ t.env = .mock m' ∧
      (∀ a ∈ windowStore s.params cs (s.params.opWreg ||| reg), m'.regs.read a = some data) ∧
      (∀ a : Nat, a ∉ windowStore s.params cs (s.params.opWreg ||| reg) →
        m'.regs.read a = m.regs.read a)

/-! ### Checksum -/

/-- R120: CHKSUM returns the byte sum of the value modulo 256, plus 0x9B modulo 256, exclusive-or the received
byte, and changes nothing else; the rule's corner values; 0 exactly when the received byte is the expected
one. -/
def Obligations.ChksumReturnsAdditiveCheck : Prop :=
  (∀ (value : Word) (rx : Byte) (s : State), s.engine.released = false →
    exec (.chksum value rx) s =
      .next { s with result := .byte (BitVec.ofNat 8 (expectedCheckNat value) ^^^ rx) }) ∧
  (∀ (value : Word) (rx : Byte) (s : State), s.engine.released = true →
    exec (.chksum value rx) s = .refused .released) ∧
  (∀ (b3 b2 b1 b0 rx : Byte) (rest : List Byte),
    decode (0x04 :: b3 :: b2 :: b1 :: b0 :: rx :: rest) =
      .request (.chksum (b3 ++ b2 ++ b1 ++ b0) rx) rest) ∧
  (∀ (value : Word) (rx : Byte), checksum value rx = 0 ↔ rx.toNat = expectedCheckNat value) ∧
  (∀ value : Word, byteSumNat value = 0x65 → checksum value 0x00 = 0) ∧
  expectedCheckNat 0 = 0x9B ∧ byteSumNat 0xFFFFFFFF = 0xFC ∧ expectedCheckNat 0xFFFFFFFF = 0x97 ∧
  checksum 0x12345678 0xAF = 0

/-- R122: for every value exactly one received byte passes, and the check is a bijection of the received byte.
R122 is derived by the spec from R120. -/
def Obligations.ChksumAcceptsExactlyOneByte : Prop :=
  ∀ value : Word, (∃! rx : Byte, checksum value rx = 0) ∧ Function.Bijective (checksum value)

/-- R123: the checksum does not see two data bytes exchanged, nor an amount moved from one to another; a frame
of six 0xFF bytes and one of six 0x00 bytes fail. R123 is derived by the spec from R120. -/
def Obligations.ChksumBlindToEqualSums : Prop :=
  (∀ d3 d2 d1 d0 k rx : Byte,
    checksum (assembleSample d2 d3 d1 d0) rx = checksum (assembleSample d3 d2 d1 d0) rx ∧
    checksum (assembleSample d3 d1 d2 d0) rx = checksum (assembleSample d3 d2 d1 d0) rx ∧
    checksum (assembleSample d3 d2 d0 d1) rx = checksum (assembleSample d3 d2 d1 d0) rx ∧
    checksum (assembleSample (d3 + k) (d2 - k) d1 d0) rx = checksum (assembleSample d3 d2 d1 d0) rx) ∧
  checksum (assembleSample 0xFF 0xFF 0xFF 0xFF) 0xFF ≠ 0 ∧
  checksum (assembleSample 0x00 0x00 0x00 0x00) 0x00 ≠ 0

/-! ### Data-ready wait -/

/-- R130: with a line that answers high `k` times and then low, `k` below the bound, WAITRDY makes `k + 1`
reads and no other event, and leaves `E.poll` at `k`. The count is the spec's decision D12 (log entry 15). -/
def Obligations.WaitrdyReturnsWhenLineGoesLow : Prop :=
  ∀ (drdy : Pin) (k : Nat) (bytes : List Byte) (levels : List Level) (s : State),
    s.engine.released = false → k < s.params.readyPollLimit →
    s.env = .scripted bytes (List.replicate k .high ++ .low :: levels) →
    ∃ t, exec (.waitrdy drdy) s = .next t ∧
      Performed s t (List.replicate k (.rd drdy .high) ++ [.rd drdy .low])
        { s.engine with poll := k } .none ∧
      t.env = .scripted bytes levels

/-- R130, R133: with a line that answers high as many times as the bound, WAITRDY makes exactly that many
reads, logs `ReadyTimeout`, and returns; a low level that would come next is not seen. The count is the spec's
decision D12 (log entry 15). -/
def Obligations.WaitrdyTimesOutAtBound : Prop :=
  ∀ (drdy : Pin) (bytes : List Byte) (levels : List Level) (s : State),
    s.engine.released = false → 1 ≤ s.params.readyPollLimit →
    s.env = .scripted bytes (List.replicate s.params.readyPollLimit .high ++ levels) →
    ∃ t, exec (.waitrdy drdy) s = .next t ∧
      Performed s t
        (List.replicate s.params.readyPollLimit (.rd drdy .high) ++ [.dg (.readyTimeout drdy)])
        { s.engine with
          poll := s.params.readyPollLimit
          diag := s.engine.diag ++ [.readyTimeout drdy] } .none ∧
      t.env = .scripted bytes levels

/-- R132: for every environment WAITRDY makes at most as many reads as the bound (one, if the bound is 0) and
returns, with no other event but the diagnostic of a timeout. R132 is derived by the spec from R130; the count
is its decision D12 (log entry 15). -/
def Obligations.WaitrdyAlwaysReturns : Prop :=
  ∀ (drdy : Pin) (s : State), s.engine.released = false →
    ∃ (w : Wait) (t : State), exec (.waitrdy drdy) s = .next t ∧ w.Allowed s.params ∧
      Performed s t (waitEvents drdy w)
        { s.engine with
          poll := w.highs
          diag := s.engine.diag ++ (if w.timedOut then [.readyTimeout drdy] else []) } .none ∧
      1 ≤ t.draws - s.draws ∧ t.draws - s.draws ≤ max 1 s.params.readyPollLimit

/-! ### Configurator -/

/-- R140: CHIPID reads the identity register once, stores and returns the shifted byte, and logs exactly one
of `IdOk` and `IdMismatch`. The shift and the log are the spec's decisions D17 and D5 (log entry 18). -/
def Obligations.ChipidStoresAndLogsIdentity : Prop :=
  ∀ (cs : Pin) (s : State), s.engine.released = false →
    ∃ (r0 r1 v : Byte) (t : State), exec (.chipid cs) s = .next t ∧
      Performed s t
        (readEvents s.params cs s.params.regId r0 r1 v ++
          [.dg (if v >>> s.params.idShift = 1 then .idOk cs (v >>> s.params.idShift)
            else .idMismatch cs (v >>> s.params.idShift))])
        { s.engine with
          csHeld := none
          chipId := s.engine.chipId.write cs.toNat (v >>> s.params.idShift)
          diag := s.engine.diag ++
            [if v >>> s.params.idShift = 1 then .idOk cs (v >>> s.params.idShift)
              else .idMismatch cs (v >>> s.params.idShift)] }
        (.byte (v >>> s.params.idShift))

/-- R142: CONFIG writes mode-2, reference-mux, mode-0, mode-1 in this order, each write followed by the settle
delay and a read-back, each mismatch logged and none stopping the sequence. The signature is the spec's
decision D18. -/
def Obligations.ConfigRunsFourStepsInOrder : Prop :=
  ∀ (delay rate : Byte) (cs : Pin) (s : State), s.engine.released = false →
    ∃ (a b c d : WriteBack) (t : State), exec (.config delay rate cs) s = .next t ∧
      Performed s t
        (configStepEvents s.params cs s.params.regMode2 s.params.mode2Value a ++
          configStepEvents s.params cs s.params.regRefmux s.params.refmuxValue b ++
          configStepEvents s.params cs s.params.regMode0 delay c ++
          configStepEvents s.params cs s.params.regMode1 rate d)
        { s.engine with
          csHeld := none
          diag := s.engine.diag ++
            diagsOf (mismatchEvents cs s.params.regMode2 s.params.mode2Value a.readback ++
              mismatchEvents cs s.params.regRefmux s.params.refmuxValue b.readback ++
              mismatchEvents cs s.params.regMode0 delay c.readback ++
              mismatchEvents cs s.params.regMode1 rate d.readback) } .none

/-- R145: INIT is the identity check, the stop command and CONFIG with the fixed delay setting; it records the
rate and the identity, and returns 0 whatever the device answered. The record of the rate is the spec's
decision D19 (log entry 18). -/
def Obligations.InitAlwaysReturnsZero : Prop :=
  ∀ (rate : Byte) (cs : Pin) (s : State), s.engine.released = false →
    ∃ (r0 r1 v x : Byte) (a b c d : WriteBack) (t : State), exec (.init rate cs) s = .next t ∧
      Performed s t
        (identityEvents s.params cs r0 r1 v ++ windowEvents cs [(s.params.cmdStop, x)] ++
          configEvents s.params cs s.params.delay35us rate a b c d)
        { s.engine with
          csHeld := none
          rate := s.engine.rate.write cs.toNat rate
          chipId := s.engine.chipId.write cs.toNat (v >>> s.params.idShift)
          diag := s.engine.diag ++ [identityDiag cs (v >>> s.params.idShift)] ++
            diagsOf (configEvents s.params cs s.params.delay35us rate a b c d) }
        (.byte 0x00)

/-- R146, R90: SETMODE writes the flag and nothing else for the operand bytes 0 and 1; any other is refused
with `BadOperand`. The operand's range is the spec's decision D27 (log entry 12). -/
def Obligations.SetmodeWritesFlagOnly : Prop :=
  ∀ (mode : Byte) (s : State), s.engine.released = false →
    (mode = 0 → exec (.setmode mode) s =
      .next { s with engine := { s.engine with scanMode := .singleEnded }, result := .none }) ∧
    (mode = 1 → exec (.setmode mode) s =
      .next { s with engine := { s.engine with scanMode := .differential }, result := .none }) ∧
    (2 ≤ mode.toNat → exec (.setmode mode) s = .refused (.badOperand mode))

/-- R147: RESETDEV pulses the reset line high, low, high, with the delay after each edge, and changes no
engine state. The delays are the spec's decision D20 (log entry 18). The last clause holds for every pin `rst`; for
one that is no output, to which R32 and R204 give no `Env.out`, it rests on the model's choice to record the
level all the same (log entry 23). -/
def Obligations.ResetdevPulsesResetLine : Prop :=
  ∀ (rst : Pin) (s : State), s.engine.released = false →
    ∃ t, exec (.resetdev rst) s = .next t ∧
      Performed s t
        [.wr rst .high, .dly s.params.tResetMs, .wr rst .low, .dly s.params.tResetMs, .wr rst .high,
          .dly s.params.tResetMs] s.engine .none ∧
      Table.get t.pins.out rst.toNat = some .high

/-- R150, R31: SHUTDOWN sets `E.released` and nothing else, and every operation after it is refused with
`Released`. SHUTDOWN is the spec's decision D22; that `Released` goes before other reasons is log entry 10. -/
def Obligations.ShutdownRefusesEverythingAfter : Prop :=
  (∀ s : State, s.engine.released = false → exec .shutdown s =
    .next { s with engine := { s.engine with released := true }, result := .none }) ∧
  (∀ (i : Instr) (s : State), s.engine.released = true → exec i s = .refused .released)

/-! ### Scanner -/

/-- R160: for a channel up to 10 SELCH writes `(ch << 4) | 0x0A` to the input-multiplexer register and reads
it back, with no delay between, and logs a mismatch only. That no delay stands between is the spec's decision
D16 (log entry 17). -/
def Obligations.SelchWritesMuxByte : Prop :=
  ∀ (ch : Byte) (cs : Pin) (s : State), s.engine.released = false → ch.toNat ≤ 10 →
    ∃ (a : WriteBack) (t : State), exec (.selch ch cs) s = .next t ∧
      Performed s t
        (writeEvents s.params cs s.params.regInpmux ((ch <<< 4) ||| 0x0A) a.w0 a.w1 a.w2 ++
          readEvents s.params cs s.params.regInpmux a.r0 a.r1 a.readback ++
          mismatchEvents cs s.params.regInpmux ((ch <<< 4) ||| 0x0A) a.readback)
        { s.engine with
          csHeld := none
          diag := s.engine.diag ++
            diagsOf (mismatchEvents cs s.params.regInpmux ((ch <<< 4) ||| 0x0A) a.readback) } .none

/-- R160, R91, R193: for a channel above 10 SELCH performs no event and changes nothing. That nothing is
issued is the spec's decision D14 (log entry 17). -/
def Obligations.SelchIgnoresInvalidChannel : Prop :=
  ∀ (ch : Byte) (cs : Pin) (s : State), s.engine.released = false → 10 < ch.toNat →
    exec (.selch ch cs) s = .next { s with result := .none }

/-- R87: the mux byte of each valid channel and its two nibbles, that SELCH sends it, and the sample as the
four data bytes, each shifted to its place. -/
def Obligations.MuxByteAndSampleAssembly : Prop :=
  (∀ ch : Byte, ch.toNat ≤ 10 →
    (muxByte ch).extractLsb' 4 4 = ch.extractLsb' 0 4 ∧ (muxByte ch).extractLsb' 0 4 = 0xA) ∧
  [0, 1, 2, 3, 4, 5, 6, 7, 8, 9, 10].map muxByte =
    [0x0A, 0x1A, 0x2A, 0x3A, 0x4A, 0x5A, 0x6A, 0x7A, 0x8A, 0x9A, 0xAA] ∧
  (∀ (ch : Byte) (cs : Pin) (s : State), s.engine.released = false → ch.toNat ≤ 10 →
    ∃ (r0 r1 r2 : Byte) (evs : List Event) (t : State), exec (.selch ch cs) s = .next t ∧
      t.trace = s.trace ++ writeEvents s.params cs s.params.regInpmux (muxByte ch) r0 r1 r2 ++ evs) ∧
  (∀ d3 d2 d1 d0 : Byte, (assembleSample d3 d2 d1 d0).toNat =
    d3.toNat * 2 ^ 24 + d2.toNat * 2 ^ 16 + d1.toNat * 2 ^ 8 + d0.toNat)

/-- R161: FRAMERD is six transfers of 0x00 in one window, with nothing before them; the six answers are stored
as the frame and returned, the data bytes as the sample, the first the most significant. That no command goes
before is the spec's decision D11 (log entry 16). -/
def Obligations.FramerdReadsSixBytes : Prop :=
  ∀ (cs : Pin) (s : State), s.engine.released = false →
    ∃ (f : Frame) (t : State), exec (.framerd cs) s = .next t ∧
      Performed s t
        [.wr cs .low, .xfer 0x00 f.status, .xfer 0x00 f.d3, .xfer 0x00 f.d2, .xfer 0x00 f.d1,
          .xfer 0x00 f.d0, .xfer 0x00 f.chk, .wr cs .high]
        { s.engine with csHeld := none, frame := some f }
        (.frame f.status (f.d3 ++ f.d2 ++ f.d1 ++ f.d0) f.chk)

/-- R54: the sample a framed read returns has the data bytes at their big-endian places, in the order they
were received, in every state: the byte order cannot be switched. A script stands for any environment (log
entry 3). -/
def Obligations.SampleIsBigEndian : Prop :=
  ∀ (cs : Pin) (st d3 d2 d1 d0 ck : Byte) (bytes : List Byte) (levels : List Level) (s : State),
    s.engine.released = false →
    s.env = .scripted (st :: d3 :: d2 :: d1 :: d0 :: ck :: bytes) levels →
    ∃ (value : Word) (t : State), exec (.framerd cs) s = .next t ∧ t.result = .frame st value ck ∧
      value = d3 ++ d2 ++ d1 ++ d0 ∧
      value.extractLsb' 24 8 = d3 ∧ value.extractLsb' 16 8 = d2 ∧ value.extractLsb' 8 8 = d1 ∧
      value.extractLsb' 0 8 = d0

/-- R169, R193: RDCHAN of a channel above 10 issues the stop command, nothing else, and returns 0. The stop
command before the test is the spec's decision D14 (log entry 17). -/
def Obligations.RdchanInvalidChannelReturnsZero : Prop :=
  ∀ (ch : Byte) (cs drdy : Pin) (s : State), s.engine.released = false →
    s.engine.scanMode = .singleEnded → 10 < ch.toNat →
    ∃ (r0 : Byte) (t : State), exec (.rdchan ch cs drdy) s = .next t ∧
      Performed s t (windowEvents cs [(s.params.cmdStop, r0)]) { s.engine with csHeld := none }
        (.word 0x00000000)

/-- R166 to R168, R171: RDCHAN of a valid channel, for every environment: stop, select, start, then between 1
and 50 rounds of a wait and a framed read; every frame but the last fails; the value is the last frame's if it
passes, else 0xFFFFFFFF after exactly 50 reads, with `ReadFailed` logged. The counts and the order are the
spec's decisions D12 to D14 and D23 (log entries 15, 17 and 18). -/
def Obligations.RdchanReadsUntilValidFrame : Prop :=
  ∀ (ch : Byte) (cs drdy : Pin) (s : State), s.engine.released = false →
    s.engine.scanMode = .singleEnded → ch.toNat ≤ 10 →
    ∃ (v : Word) (t : State), exec (.rdchan ch cs drdy) s = .next t ∧ t.result = .word v ∧
      ChannelRead s t ch cs drdy v

/-- R166, R168: with a line that is low at once and frames of which the first `n`, fewer than 50, fail and the
next passes, RDCHAN returns that frame's sample after `n + 1` reads. The counts are the spec's decision D13
(log entry 15). -/
def Obligations.RdchanReturnsFirstGoodFrame : Prop :=
  ∀ (ch : Byte) (cs drdy : Pin) (pre : List Byte) (bad : List Frame) (good : Frame) (bytes : List Byte)
    (levels : List Level) (s : State), s.engine.released = false → s.engine.scanMode = .singleEnded →
    ch.toNat ≤ 10 → pre.length = 8 → bad.length < 50 → (∀ f ∈ bad, ¬ f.Good) → good.Good →
    s.env = .scripted (pre ++ bad.flatMap Frame.bytes ++ good.bytes ++ bytes)
      (List.replicate (bad.length + 1) .low ++ levels) →
    ∃ t, exec (.rdchan ch cs drdy) s = .next t ∧ t.result = .word (good.d3 ++ good.d2 ++ good.d1 ++ good.d0) ∧
      t.engine.attempt = bad.length + 1 ∧ t.engine.frame = some good ∧ t.env = .scripted bytes levels

/-- R168: when every one of 50 frames fails RDCHAN returns 0xFFFFFFFF after exactly 50 framed reads, the last
diagnostic being `ReadFailed`, and makes no further wait. The counts and the event are the spec's decisions
D13 and D23 (log entries 15 and 18). -/
def Obligations.RdchanFailsAfterFiftyReads : Prop :=
  ∀ (ch : Byte) (cs drdy : Pin) (pre : List Byte) (bad : List Frame) (bytes : List Byte)
    (levels : List Level) (s : State), s.engine.released = false → s.engine.scanMode = .singleEnded →
    ch.toNat ≤ 10 → pre.length = 8 → bad.length = 50 → (∀ f ∈ bad, ¬ f.Good) →
    s.env = .scripted (pre ++ bad.flatMap Frame.bytes ++ bytes) (List.replicate 50 .low ++ levels) →
    ∃ t, exec (.rdchan ch cs drdy) s = .next t ∧ t.result = .word 0xFFFFFFFF ∧
      t.engine.attempt = 50 ∧ t.engine.diag.getLast? = some (.readFailed cs ch) ∧
      t.env = .scripted bytes levels

/-- R170, R196: in differential mode RDCHAN, and RDCHANS of a non-empty list, are refused with
`UnsupportedMode`. The refusal is the spec's decision D15. -/
def Obligations.DifferentialReadsRefused : Prop :=
  ∀ (ch : Byte) (list : List Byte) (cs drdy : Pin) (s : State), s.engine.released = false →
    s.engine.scanMode = .differential →
    exec (.rdchan ch cs drdy) s = .refused .unsupportedMode ∧
    exec (.rdchans (ch :: list) cs drdy) s = .refused .unsupportedMode

/-- R24, R167: between operations the sequencer is idle, and every operation enters phases only by the
transitions of the rule's table, starting at `Idle` and ending there. The return to `Idle` is the spec's
decision D31. -/
def Obligations.PhasesFollowTransitionTable : Prop :=
  ∀ (i : Instr) (s t : State), s.engine.phase = .idle → exec i s = .next t →
    t.engine.phase = .idle ∧ ∃ phs, t.phases = s.phases ++ phs ∧ phasePath .idle phs .idle

/-! ### Orchestrator -/

/-- R180: RDCHANS returns as many values as the list has entries, also in `E.out`, and leaves `E.idx` at their
number; an entry above 10 yields 0 at its place; nothing is written of the engine record but what a channel
read writes; the empty list returns in either mode with no event. The details are the spec's decision D29 (log
entry 21). -/
def Obligations.RdchansReturnsOneValuePerChannel : Prop :=
  (∀ (list : List Byte) (cs drdy : Pin) (s : State), s.engine.released = false →
    s.engine.scanMode = .singleEnded →
    ∃ (vs : List Word) (evs : List Event) (t : State), exec (.rdchans list cs drdy) s = .next t ∧
      t.result = .words vs ∧ vs.length = list.length ∧
      (∀ (k : Nat) (ch : Byte), list[k]? = some ch → 10 < ch.toNat → vs[k]? = some 0) ∧
      Ran s t evs ∧
      t.engine =
        { s.engine with
          csHeld := t.engine.csHeld, phase := t.engine.phase, attempt := t.engine.attempt
          poll := t.engine.poll, frame := t.engine.frame, diag := s.engine.diag ++ diagsOf evs
          out := vs, idx := list.length }) ∧
  (∀ (cs drdy : Pin) (s : State), s.engine.released = false →
    exec (.rdchans [] cs drdy) s =
      .next { s with engine := { s.engine with out := [], idx := 0 }, result := .words [] })

/-- R180: a scan of one channel more is the scan, then a full RDCHAN of that channel from the state the scan
left: the trace is the concatenation, and the value comes last. The details are the spec's decision D29 (log
entry 21). -/
def Obligations.RdchansIsRepeatedRdchan : Prop :=
  ∀ (list : List Byte) (ch : Byte) (cs drdy : Pin) (s : State), s.engine.released = false →
    s.engine.scanMode = .singleEnded →
    ∃ (vs : List Word) (v : Word) (t u : State),
      exec (.rdchans list cs drdy) s = .next t ∧ t.result = .words vs ∧
      exec (.rdchan ch cs drdy) t = .next u ∧ u.result = .word v ∧
      exec (.rdchans (list ++ [ch]) cs drdy) s =
        .next { u with
          engine := { u.engine with out := vs ++ [v], idx := list.length + 1 }
          result := .words (vs ++ [v]) }

/-- R95, R181: SCANDEVS is one RDCHANS per device in the order given: for one device it is that RDCHANS, and a
longer list is the passes of its two parts one after the other. The pseudo-operation is the spec's decision
D30. -/
def Obligations.ScandevsVisitsDevicesInOrder : Prop :=
  ∀ (list : List Byte) (devs more : List (Pin × Pin)) (cs drdy : Pin) (s : State),
    s.engine.released = false → s.engine.scanMode = .singleEnded →
    (∃ (vs : List Word) (t : State), exec (.rdchans list cs drdy) s = .next t ∧ t.result = .words vs ∧
      scanDevices list [(cs, drdy)] s = .next ([vs], t)) ∧
    (∃ (vss wss : List (List Word)) (t u : State), scanDevices list devs s = .next (vss, t) ∧
      scanDevices list more t = .next (wss, u) ∧
      scanDevices list (devs ++ more) s = .next (vss ++ wss, u) ∧ vss.length = devs.length)

/-! ### The whole machine -/

/-- R14, R190, R196: an operation is refused exactly where R196 lists it, with the reason it lists, and
otherwise returns; there is no third outcome. The reasons are the spec's decisions D15, D22, D27 and D28;
which comes first is log entry 10; that no interface call fails is log entry 14. -/
def Obligations.RefusedExactlyWhereListed : Prop :=
  ∀ (i : Instr) (s : State),
    (∀ r, refusalOf i s = some r → exec i s = .refused r) ∧
    (refusalOf i s = none → ∃ t, exec i s = .next t)

/-- R90, R196: a request with a reserved id is refused with `ReservedOp`. The refusal is the spec's decision
D28 (log entry 11). -/
def Obligations.ReservedIdsAreRefused : Prop :=
  ∀ (id : Byte) (rest : List Byte) (s : State), id.toNat = 0 ∨ 16 ≤ id.toNat → s.engine.released = false →
    s.resetIn = false → s.wireIn = none → s.hostIn = id :: rest →
    exec (.reserved id) s = .refused (.reservedOp id) ∧ step s = .refused (.reservedOp id)

/-- R12, R16, R30, R60, R191: whatever operation runs, all it does outside the engine record is a list of
events in one order, with the environment's own answers; the configuration and the inputs are untouched; and
the diagnostic log grows by the diagnostics of the trace and nothing else. Free answers: log entry 3; the log
is the spec's decision D5. -/
def Obligations.OperationsAreTheirTraces : Prop :=
  ∀ (i : Instr) (s t : State), exec i s = .next t →
    ∃ evs, Ran s t evs ∧ t.engine.diag = s.engine.diag ++ diagsOf evs

/-- R204, R147, R113: no operation configures a pin's direction, and none writes a line but the chip-select or
reset line it is given. R113 is derived by the spec from R110 to R112. -/
def Obligations.OperationsWriteOnlyTheirLine : Prop :=
  ∀ (i : Instr) (s t : State), exec i s = .next t →
    t.pins.dir = s.pins.dir ∧
    ∀ q : Pin, q ∉ writtenPins i → Table.get t.pins.out q.toNat = Table.get s.pins.out q.toNat

/-- 95_test_vectors.md Part D 8, R24, R30: no event, refusal, result or other part of the state depends on
`E.diag`, `E.rate`, `E.chip_id` or `E.phase`: of two runs that differ in these four only, both are refused for
one reason or both return, and then agree in everything but these four. The log's form and the two maps are
the spec's decisions D5 and D7; the phase history is the model's (log entry 8). -/
def Obligations.RecordFieldsNeverInfluence : Prop :=
  ∀ (i : Instr) (s : State) (d : List Diag) (r c : Memory) (ph : Phase),
    (∀ q, exec i s = .refused q →
      exec i { s with engine := { s.engine with diag := d, rate := r, chipId := c, phase := ph } } =
        .refused q) ∧
    (∀ t, exec i s = .next t →
      ∃ u, exec i { s with engine := { s.engine with diag := d, rate := r, chipId := c, phase := ph } } =
          .next u ∧
        u = { t with engine := { t.engine with
          diag := u.engine.diag, rate := u.engine.rate, chipId := u.engine.chipId
          phase := u.engine.phase } })

/-- R92: in the engine's own sequences every transaction's first byte is one of the rule's list, and the
second byte of a register frame is 0x00. R92 is derived by the spec. -/
def Obligations.OwnSequencesEmitListedBytes : Prop :=
  ∀ (i : Instr) (s t : State), ownSequence i = true → exec i s = .next t →
    ∃ evs, t.trace = s.trace ++ evs ∧
      ∀ w ∈ transactions evs, ∃ b rest, w.sent = b :: rest ∧ b ∈ ownFirstBytes s.params ∧
        (rest = [] ∨ rest.head? = some 0x00)

/-- R88, R89: the result of an operation has the number of bytes the table gives. The byte format is the
spec's own (decision D2). -/
def Obligations.ResultHasTableLength : Prop :=
  ∀ (i : Instr) (s t : State), exec i s = .next t → t.result.toBytes.length = resultLength i

/-- R245 and the trace counts of the operations' rules: the number of events of every operation of fixed
shape. The counts are read off the operations' rules by the model (log entries 15 to 18 name the decisions in
them). -/
def Obligations.EventCountsAreAsListed : Prop :=
  ∀ (i : Instr) (s t : State) (least most : Nat), eventCount s.params i = some (least, most) →
    exec i s = .next t →
    ∃ evs, t.trace = s.trace ++ evs ∧ least ≤ evs.length ∧ evs.length ≤ most

/-! ### Invariants that every step keeps -/

/-- R24, R29: with no line held and the sequencer idle before a step, so it is after it. R29 is derived by the
spec; the phase is its decision D31. -/
def Obligations.StepKeepsQuiescent : Prop :=
  ∀ s t : State, s.Quiescent → step s = .next t → t.Quiescent

/-- R29, R57, R62: a well-framed trace stays well framed: every transfer is inside a window of one line, no
two lines are low together, and nothing but transfers stands inside a window. R29 and R57 are derived by the
spec. -/
def Obligations.StepKeepsTraceFramed : Prop :=
  ∀ s t : State, Framed s.trace → step s = .next t → Framed t.trace

/-- R23, R32, R40: every table of the state stays in its canonical form. The canonical form is the model's
choice (log entry 19). -/
def Obligations.StepKeepsTablesCanonical : Prop :=
  ∀ s t : State, s.Canonical → step s = .next t → t.Canonical

/-- R25 to R27: the counters stay in their ranges. R25 and R26 are derived by the spec. -/
def Obligations.StepKeepsCountersInRange : Prop :=
  ∀ s t : State, s.CountersInRange → step s = .next t → t.CountersInRange

/-- R32: with every line the engine has written high before a step, so they all are after it. R32 is derived
by the spec, and speaks of outputs only; for a written pin that is no output, to which R32 and R204 give no
`Env.out`, the statement rests on the model's choice to record the level all the same (log entry 23). -/
def Obligations.StepKeepsLinesHigh : Prop :=
  ∀ s t : State, s.LinesHigh → step s = .next t → t.LinesHigh

/-- R29, R32, R43: the state after reset meets every one of the invariants, for every parameter set. The reset
values are the spec's decisions D6 and D21 (log entry 2); that a bring-up write to a pin that is no output is
recorded is the model's choice (log entry 23). -/
def Obligations.ResetMeetsInvariants : Prop :=
  ∀ p : Params, (State.resetWith p).Quiescent ∧ Framed (State.resetWith p).trace ∧
    (State.resetWith p).Canonical ∧ (State.resetWith p).CountersInRange ∧
    (State.resetWith p).LinesHigh

/-! ### The line held inside a transaction -/

/-- R29, R57: asserting a line writes its pin id to `E.cs_held`; before each transfer of a transaction that line
is the one held, a transfer leaving the engine record as it is; releasing the line clears it; and each of the
four transactions, WCMD, WREG, RREG and FRAMERD, is the assertion of its `cs` operand, its transfers, and the
release of the same pin. R29 and R57 are derived by the spec. -/
def Obligations.CsHeldNamesTheLineOfItsWindow : Prop :=
  ∀ (cs : Pin) (s : State),
    (s.assertCs cs).engine = { s.engine with csHeld := some cs } ∧
    (s.assertCs cs).trace = s.trace ++ [.wr cs .low] ∧
    (∀ (b : Byte), (s.xfer b).2.engine = s.engine) ∧
    (∀ bytes : List Byte, (sendAll bytes (s.assertCs cs)).engine = { s.engine with csHeld := some cs }) ∧
    (s.releaseCs cs).engine = { s.engine with csHeld := none } ∧
    (s.releaseCs cs).trace = s.trace ++ [.wr cs .high] ∧
    (∀ cmd : Byte, writeCommand cmd cs s = transact cs [cmd] s) ∧
    (∀ reg data : Byte, writeRegister reg data cs s = transact cs [s.params.opWreg ||| reg, 0x00, data] s) ∧
    (∀ reg : Byte, (readRegister reg cs s).2 = transact cs [s.params.opRreg ||| reg, 0x00, 0x00] s) ∧
    (framedRead cs s).2 =
      (transact cs [0x00, 0x00, 0x00, 0x00, 0x00, 0x00] s).withEngine
        { s.engine with csHeld := none, frame := some (framedRead cs s).1 }
end

