-- ==== Sys2Proof/Laws/State.lean ====
section
/-! SUPPORT. One lemma per field of `State` per update, so that no proof unfolds a record update. -/

namespace Sys2Proof.Machine

@[simp] theorem State.emit_params (s : State) (ev : Event) : (s.emit ev).params = s.params := rfl
@[simp] theorem State.emit_engine (s : State) (ev : Event) : (s.emit ev).engine = s.engine := rfl
@[simp] theorem State.emit_pins (s : State) (ev : Event) : (s.emit ev).pins = s.pins.apply ev := rfl
@[simp] theorem State.emit_env (s : State) (ev : Event) : (s.emit ev).env = s.env.observe s.params ev := rfl
@[simp] theorem State.emit_hostIn (s : State) (ev : Event) : (s.emit ev).hostIn = s.hostIn := rfl
@[simp] theorem State.emit_wireIn (s : State) (ev : Event) : (s.emit ev).wireIn = s.wireIn := rfl
@[simp] theorem State.emit_resetIn (s : State) (ev : Event) : (s.emit ev).resetIn = s.resetIn := rfl
@[simp] theorem State.emit_result (s : State) (ev : Event) : (s.emit ev).result = s.result := rfl
@[simp] theorem State.emit_trace (s : State) (ev : Event) : (s.emit ev).trace = s.trace ++ [ev] := rfl
@[simp] theorem State.emit_phases (s : State) (ev : Event) : (s.emit ev).phases = s.phases := rfl
@[simp] theorem State.emit_draws (s : State) (ev : Event) : (s.emit ev).draws = s.draws := rfl

@[simp] theorem State.withEngine_params (s : State) (e : Engine) : (s.withEngine e).params = s.params := rfl
@[simp] theorem State.withEngine_engine (s : State) (e : Engine) : (s.withEngine e).engine = e := rfl
@[simp] theorem State.withEngine_pins (s : State) (e : Engine) : (s.withEngine e).pins = s.pins := rfl
@[simp] theorem State.withEngine_env (s : State) (e : Engine) : (s.withEngine e).env = s.env := rfl
@[simp] theorem State.withEngine_hostIn (s : State) (e : Engine) : (s.withEngine e).hostIn = s.hostIn := rfl
@[simp] theorem State.withEngine_wireIn (s : State) (e : Engine) : (s.withEngine e).wireIn = s.wireIn := rfl
@[simp] theorem State.withEngine_resetIn (s : State) (e : Engine) : (s.withEngine e).resetIn = s.resetIn := rfl
@[simp] theorem State.withEngine_result (s : State) (e : Engine) : (s.withEngine e).result = s.result := rfl
@[simp] theorem State.withEngine_trace (s : State) (e : Engine) : (s.withEngine e).trace = s.trace := rfl
@[simp] theorem State.withEngine_phases (s : State) (e : Engine) : (s.withEngine e).phases = s.phases := rfl
@[simp] theorem State.withEngine_draws (s : State) (e : Engine) : (s.withEngine e).draws = s.draws := rfl

@[simp] theorem State.setPhase_params (s : State) (ph : Phase) : (s.setPhase ph).params = s.params := rfl
@[simp] theorem State.setPhase_engine (s : State) (ph : Phase) : (s.setPhase ph).engine = { s.engine with phase := ph } := rfl
@[simp] theorem State.setPhase_pins (s : State) (ph : Phase) : (s.setPhase ph).pins = s.pins := rfl
@[simp] theorem State.setPhase_env (s : State) (ph : Phase) : (s.setPhase ph).env = s.env := rfl
@[simp] theorem State.setPhase_hostIn (s : State) (ph : Phase) : (s.setPhase ph).hostIn = s.hostIn := rfl
@[simp] theorem State.setPhase_wireIn (s : State) (ph : Phase) : (s.setPhase ph).wireIn = s.wireIn := rfl
@[simp] theorem State.setPhase_resetIn (s : State) (ph : Phase) : (s.setPhase ph).resetIn = s.resetIn := rfl
@[simp] theorem State.setPhase_result (s : State) (ph : Phase) : (s.setPhase ph).result = s.result := rfl
@[simp] theorem State.setPhase_trace (s : State) (ph : Phase) : (s.setPhase ph).trace = s.trace := rfl
@[simp] theorem State.setPhase_phases (s : State) (ph : Phase) : (s.setPhase ph).phases = s.phases ++ [ph] := rfl
@[simp] theorem State.setPhase_draws (s : State) (ph : Phase) : (s.setPhase ph).draws = s.draws := rfl

@[simp] theorem State.drew_params (s : State) : (s.drew).params = s.params := rfl
@[simp] theorem State.drew_engine (s : State) : (s.drew).engine = s.engine := rfl
@[simp] theorem State.drew_pins (s : State) : (s.drew).pins = s.pins := rfl
@[simp] theorem State.drew_env (s : State) : (s.drew).env = s.env := rfl
@[simp] theorem State.drew_hostIn (s : State) : (s.drew).hostIn = s.hostIn := rfl
@[simp] theorem State.drew_wireIn (s : State) : (s.drew).wireIn = s.wireIn := rfl
@[simp] theorem State.drew_resetIn (s : State) : (s.drew).resetIn = s.resetIn := rfl
@[simp] theorem State.drew_result (s : State) : (s.drew).result = s.result := rfl
@[simp] theorem State.drew_trace (s : State) : (s.drew).trace = s.trace := rfl
@[simp] theorem State.drew_phases (s : State) : (s.drew).phases = s.phases := rfl
@[simp] theorem State.drew_draws (s : State) : (s.drew).draws = s.draws + 1 := rfl

@[simp] theorem State.returning_params (s : State) (r : Result) : (s.returning r).params = s.params := rfl
@[simp] theorem State.returning_engine (s : State) (r : Result) : (s.returning r).engine = s.engine := rfl
@[simp] theorem State.returning_pins (s : State) (r : Result) : (s.returning r).pins = s.pins := rfl
@[simp] theorem State.returning_env (s : State) (r : Result) : (s.returning r).env = s.env := rfl
@[simp] theorem State.returning_hostIn (s : State) (r : Result) : (s.returning r).hostIn = s.hostIn := rfl
@[simp] theorem State.returning_wireIn (s : State) (r : Result) : (s.returning r).wireIn = s.wireIn := rfl
@[simp] theorem State.returning_resetIn (s : State) (r : Result) : (s.returning r).resetIn = s.resetIn := rfl
@[simp] theorem State.returning_result (s : State) (r : Result) : (s.returning r).result = r := rfl
@[simp] theorem State.returning_trace (s : State) (r : Result) : (s.returning r).trace = s.trace := rfl
@[simp] theorem State.returning_phases (s : State) (r : Result) : (s.returning r).phases = s.phases := rfl
@[simp] theorem State.returning_draws (s : State) (r : Result) : (s.returning r).draws = s.draws := rfl

end Sys2Proof.Machine
end

