-- ==== Sys2Proof/Laws/Run.lean ====
section
/-! SUPPORT. Runs of events: how they compose, and what each interface primitive runs. -/

namespace Sys2Proof.Machine

@[simp] theorem Env.observeAll_nil (p : Params) (e : Env) : e.observeAll p [] = e := rfl
@[simp] theorem Env.observeAll_cons (p : Params) (e : Env) (ev : Event) (t : List Event) :
    e.observeAll p (ev :: t) = (e.observe p ev).observeAll p t := rfl
@[simp] theorem Env.observeAll_append (p : Params) (e : Env) (a b : List Event) :
    e.observeAll p (a ++ b) = (e.observeAll p a).observeAll p b := by
  simp [Env.observeAll]
@[simp] theorem Pins.applyAll_nil (s : Pins) : s.applyAll [] = s := rfl
@[simp] theorem Pins.applyAll_cons (s : Pins) (ev : Event) (t : List Event) :
    s.applyAll (ev :: t) = (s.apply ev).applyAll t := rfl
@[simp] theorem Pins.applyAll_append (s : Pins) (a b : List Event) :
    s.applyAll (a ++ b) = (s.applyAll a).applyAll b := by
  simp [Pins.applyAll]

@[simp] theorem drawsOf_append (a b : List Event) : drawsOf (a ++ b) = drawsOf a + drawsOf b := by
  induction a with
  | nil => simp [drawsOf]
  | cons ev a ih => cases ev <;> simp [drawsOf, ih] <;> omega

theorem Env.answers_append (p : Params) (a b : List Event) :
    ∀ (e : Env) (n : Nat), e.Answers p n (a ++ b) ↔
      e.Answers p n a ∧ (e.observeAll p a).Answers p (n + drawsOf a) b := by
  induction a with
  | nil => intro e n; simp [Env.Answers, drawsOf]
  | cons ev a ih =>
    intro e n
    cases ev <;>
      simp only [List.cons_append, Env.Answers, ih, Env.observeAll_cons, drawsOf, and_assoc,
        Nat.add_assoc, Nat.add_comm 1]

theorem Ran.refl (s : State) : Ran s s [] where
  trace := by simp
  pins := rfl
  env := rfl
  answers := trivial
  draws := rfl
  params := rfl
  hostIn := rfl
  wireIn := rfl
  resetIn := rfl

theorem Ran.trans {s t u : State} {a b : List Event} (h : Ran s t a) (k : Ran t u b) :
    Ran s u (a ++ b) where
  trace := by rw [k.trace, h.trace, List.append_assoc]
  pins := by rw [k.pins, h.pins, Pins.applyAll_append]
  env := by rw [k.env, h.env, h.params, Env.observeAll_append]
  answers := by
    rw [Env.answers_append]
    refine ⟨h.answers, ?_⟩
    have := k.answers
    rwa [h.env, h.params, h.draws] at this
  draws := by rw [k.draws, h.draws, drawsOf_append, Nat.add_assoc]
  params := k.params.trans h.params
  hostIn := k.hostIn.trans h.hostIn
  wireIn := k.wireIn.trans h.wireIn
  resetIn := k.resetIn.trans h.resetIn

/-- `Ran` does not look at the engine record, the result or the phase history. -/
theorem Ran.congr {s t u : State} {a : List Event} (h : Ran s t a) (hu : Ran t u []) : Ran s u a := by
  simpa using h.trans hu

theorem ran_withEngine (s : State) (e : Engine) : Ran s (s.withEngine e) [] where
  trace := by simp
  pins := rfl
  env := rfl
  answers := trivial
  draws := rfl
  params := rfl
  hostIn := rfl
  wireIn := rfl
  resetIn := rfl

theorem ran_setPhase (s : State) (ph : Phase) : Ran s (s.setPhase ph) [] where
  trace := by simp
  pins := rfl
  env := rfl
  answers := trivial
  draws := rfl
  params := rfl
  hostIn := rfl
  wireIn := rfl
  resetIn := rfl

theorem ran_returning (s : State) (r : Result) : Ran s (s.returning r) [] where
  trace := by simp
  pins := rfl
  env := rfl
  answers := trivial
  draws := rfl
  params := rfl
  hostIn := rfl
  wireIn := rfl
  resetIn := rfl

theorem ran_pinWrite (s : State) (p : Pin) (l : Level) : Ran s (s.pinWrite p l) [.wr p l] where
  trace := rfl
  pins := rfl
  env := rfl
  answers := trivial
  draws := rfl
  params := rfl
  hostIn := rfl
  wireIn := rfl
  resetIn := rfl

theorem ran_delay (s : State) (ms : Nat) : Ran s (s.delay ms) [.dly ms] where
  trace := rfl
  pins := rfl
  env := rfl
  answers := trivial
  draws := rfl
  params := rfl
  hostIn := rfl
  wireIn := rfl
  resetIn := rfl

theorem ran_diagnose (s : State) (d : Diag) : Ran s (s.diagnose d) [.dg d] where
  trace := rfl
  pins := rfl
  env := rfl
  answers := trivial
  draws := rfl
  params := rfl
  hostIn := rfl
  wireIn := rfl
  resetIn := rfl

theorem ran_xfer (s : State) (b : Byte) : Ran s (s.xfer b).2 [.xfer b (s.xfer b).1] where
  trace := rfl
  pins := rfl
  env := rfl
  answers := ⟨rfl, trivial⟩
  draws := rfl
  params := rfl
  hostIn := rfl
  wireIn := rfl
  resetIn := rfl

theorem ran_rdByte (s : State) : Ran s s.rdByte.2 [.xfer 0x00 s.rdByte.1] := ran_xfer s 0x00

theorem ran_pinRead (s : State) (p : Pin) : Ran s (s.pinRead p).2 [.rd p (s.pinRead p).1] where
  trace := rfl
  pins := rfl
  env := rfl
  answers := ⟨rfl, trivial⟩
  draws := rfl
  params := rfl
  hostIn := rfl
  wireIn := rfl
  resetIn := rfl

theorem ran_assertCs (s : State) (cs : Pin) : Ran s (s.assertCs cs) [.wr cs .low] :=
  (ran_pinWrite s cs .low).congr (ran_withEngine _ _)

theorem ran_releaseCs (s : State) (cs : Pin) : Ran s (s.releaseCs cs) [.wr cs .high] :=
  (ran_pinWrite s cs .high).congr (ran_withEngine _ _)

/-! The fields the primitives leave alone. -/

@[simp] theorem State.xfer_engine (s : State) (b : Byte) : (s.xfer b).2.engine = s.engine := rfl
@[simp] theorem State.xfer_result (s : State) (b : Byte) : (s.xfer b).2.result = s.result := rfl
@[simp] theorem State.xfer_phases (s : State) (b : Byte) : (s.xfer b).2.phases = s.phases := rfl
@[simp] theorem State.xfer_params (s : State) (b : Byte) : (s.xfer b).2.params = s.params := rfl
@[simp] theorem State.rdByte_engine (s : State) : s.rdByte.2.engine = s.engine := rfl
@[simp] theorem State.rdByte_result (s : State) : s.rdByte.2.result = s.result := rfl
@[simp] theorem State.rdByte_phases (s : State) : s.rdByte.2.phases = s.phases := rfl
@[simp] theorem State.rdByte_params (s : State) : s.rdByte.2.params = s.params := rfl
@[simp] theorem State.pinRead_engine (s : State) (p : Pin) : (s.pinRead p).2.engine = s.engine := rfl
@[simp] theorem State.pinRead_result (s : State) (p : Pin) : (s.pinRead p).2.result = s.result := rfl
@[simp] theorem State.pinRead_phases (s : State) (p : Pin) : (s.pinRead p).2.phases = s.phases := rfl
@[simp] theorem State.pinRead_params (s : State) (p : Pin) : (s.pinRead p).2.params = s.params := rfl
@[simp] theorem State.pinWrite_engine (s : State) (p : Pin) (l : Level) :
    (s.pinWrite p l).engine = s.engine := rfl
@[simp] theorem State.pinWrite_result (s : State) (p : Pin) (l : Level) :
    (s.pinWrite p l).result = s.result := rfl
@[simp] theorem State.pinWrite_phases (s : State) (p : Pin) (l : Level) :
    (s.pinWrite p l).phases = s.phases := rfl
@[simp] theorem State.pinWrite_params (s : State) (p : Pin) (l : Level) :
    (s.pinWrite p l).params = s.params := rfl
@[simp] theorem State.delay_engine (s : State) (ms : Nat) : (s.delay ms).engine = s.engine := rfl
@[simp] theorem State.delay_result (s : State) (ms : Nat) : (s.delay ms).result = s.result := rfl
@[simp] theorem State.delay_phases (s : State) (ms : Nat) : (s.delay ms).phases = s.phases := rfl
@[simp] theorem State.delay_params (s : State) (ms : Nat) : (s.delay ms).params = s.params := rfl
@[simp] theorem State.diagnose_engine (s : State) (d : Diag) :
    (s.diagnose d).engine = { s.engine with diag := s.engine.diag ++ [d] } := rfl
@[simp] theorem State.diagnose_result (s : State) (d : Diag) : (s.diagnose d).result = s.result := rfl
@[simp] theorem State.diagnose_phases (s : State) (d : Diag) : (s.diagnose d).phases = s.phases := rfl
@[simp] theorem State.diagnose_params (s : State) (d : Diag) : (s.diagnose d).params = s.params := rfl
@[simp] theorem State.assertCs_engine (s : State) (cs : Pin) :
    (s.assertCs cs).engine = { s.engine with csHeld := some cs } := rfl
@[simp] theorem State.assertCs_result (s : State) (cs : Pin) : (s.assertCs cs).result = s.result := rfl
@[simp] theorem State.assertCs_phases (s : State) (cs : Pin) : (s.assertCs cs).phases = s.phases := rfl
@[simp] theorem State.assertCs_params (s : State) (cs : Pin) : (s.assertCs cs).params = s.params := rfl
@[simp] theorem State.releaseCs_engine (s : State) (cs : Pin) :
    (s.releaseCs cs).engine = { s.engine with csHeld := none } := rfl
@[simp] theorem State.releaseCs_result (s : State) (cs : Pin) : (s.releaseCs cs).result = s.result := rfl
@[simp] theorem State.releaseCs_phases (s : State) (cs : Pin) : (s.releaseCs cs).phases = s.phases := rfl
@[simp] theorem State.releaseCs_params (s : State) (cs : Pin) : (s.releaseCs cs).params = s.params := rfl

/-! The two ends of an operation. -/

theorem whenLive_of_live {s : State} {k : Host.Outcome State Fault Refusal}
    (h : s.engine.released = false) : s.whenLive k = k := by
  simp [State.whenLive, h]

theorem whenSingleEnded_of {s : State} {k : Host.Outcome State Fault Refusal}
    (h : s.engine.scanMode = .singleEnded) : s.whenSingleEnded k = k := by
  simp [State.whenSingleEnded, h]

/-- A finished operation, from what its body performed. -/
theorem Performed.finish {s t : State} {evs : List Event} {e : Engine} {q : Result}
    (h : Performed s t evs e q) (r : Result) : Performed s (t.returning r) evs e r where
  ran := h.ran.congr (ran_returning t r)
  engine := h.engine
  result := rfl
  phases := h.phases

theorem Performed.trans {s t u : State} {a b : List Event} {e f : Engine} {q r : Result}
    (h : Performed s t a e q) (k : Performed t u b f r) : Performed s u (a ++ b) f r where
  ran := h.ran.trans k.ran
  engine := k.engine
  result := k.result
  phases := k.phases.trans h.phases

end Sys2Proof.Machine
end

