-- ==== Sys2Proof/Laws/RegAccess.lean ====
section
/-! SUPPORT. What the register access transactions perform, for every answer (40_register_access.md R110 to
R113). -/

namespace Sys2Proof.Machine

theorem writeCommand_performed (cmd : Byte) (cs : Pin) (s : State) :
    ∃ r0 : Byte, Performed s (writeCommand cmd cs s) (windowEvents cs [(cmd, r0)])
      { s.engine with csHeld := none } s.result :=
  ⟨_, ⟨((ran_assertCs s cs).trans (ran_xfer _ cmd)).trans (ran_releaseCs _ cs), rfl, rfl, rfl⟩⟩

theorem writeRegister_performed (reg data : Byte) (cs : Pin) (s : State) :
    ∃ r0 r1 r2 : Byte, Performed s (writeRegister reg data cs s) (writeEvents s.params cs reg data r0 r1 r2)
      { s.engine with csHeld := none } s.result :=
  ⟨_, _, _, ⟨((((ran_assertCs s cs).trans (ran_xfer _ (writeOpcode s.params reg))).trans
    (ran_xfer _ Config.countOne)).trans (ran_xfer _ data)).trans (ran_releaseCs _ cs), rfl, rfl, rfl⟩⟩

theorem readRegister_performed (reg : Byte) (cs : Pin) (s : State) :
    ∃ r0 r1 : Byte, Performed s (readRegister reg cs s).2
      (readEvents s.params cs reg r0 r1 (readRegister reg cs s).1)
      { s.engine with csHeld := none } s.result :=
  ⟨_, _, ⟨((((ran_assertCs s cs).trans (ran_xfer _ (readOpcode s.params reg))).trans
    (ran_xfer _ Config.countOne)).trans (ran_rdByte _)).trans (ran_releaseCs _ cs), rfl, rfl, rfl⟩⟩

theorem stopConversions_performed (cs : Pin) (s : State) :
    ∃ r0 : Byte, Performed s (stopConversions cs s) (windowEvents cs [(s.params.cmdStop, r0)])
      { s.engine with csHeld := none } s.result :=
  writeCommand_performed s.params.cmdStop cs s

theorem startConversions_performed (cs : Pin) (s : State) :
    ∃ r0 : Byte, Performed s (startConversions cs s) (windowEvents cs [(s.params.cmdStart, r0)])
      { s.engine with csHeld := none } s.result :=
  writeCommand_performed s.params.cmdStart cs s

end Sys2Proof.Machine
end

