-- ==== Sys2Proof/Laws/Configurator.lean ====
section
/-! SUPPORT. What the configurator's sequences perform, for every answer (43_configurator.md R140 to
R147). -/

namespace Sys2Proof.Machine

/-- The diagnostics of a read-back (R142, R160). -/
theorem verifyRegister_performed (reg written : Byte) (cs : Pin) (s : State) :
    ∃ r0 r1 v : Byte, Performed s (verifyRegister reg written cs s)
      (readEvents s.params cs reg r0 r1 v ++ mismatchEvents cs reg written v)
      { s.engine with
        csHeld := none
        diag := s.engine.diag ++ diagsOf (mismatchEvents cs reg written v) } s.result := by
  obtain ⟨r0, r1, h⟩ := readRegister_performed reg cs s
  refine ⟨r0, r1, (readRegister reg cs s).1, ?_⟩
  unfold verifyRegister
  by_cases hv : (readRegister reg cs s).1 = written
  · simp only [hv, mismatchEvents, if_true, List.append_nil]
    rw [hv] at h
    simpa [diagsOf] using h
  · simp only [hv, mismatchEvents, if_false]
    exact ⟨h.ran.trans (ran_diagnose _ _), by simp [h.engine, diagsOf], by simp [h.result],
      by simp [h.phases]⟩

theorem configStep_performed (reg val : Byte) (cs : Pin) (s : State) :
    ∃ a : WriteBack, Performed s (configStep reg val cs s) (configStepEvents s.params cs reg val a)
      { s.engine with
        csHeld := none
        diag := s.engine.diag ++ diagsOf (mismatchEvents cs reg val a.readback) } s.result := by
  obtain ⟨w0, w1, w2, hw⟩ := writeRegister_performed reg val cs s
  obtain ⟨r0, r1, v, hr⟩ := verifyRegister_performed reg val cs
    ((writeRegister reg val cs s).delay Config.tSettleMs)
  have hp : ((writeRegister reg val cs s).delay Config.tSettleMs).params = s.params := by
    simp [hw.ran.params]
  rw [hp] at hr
  refine ⟨⟨w0, w1, w2, r0, r1, v⟩, ⟨?_, ?_, ?_, ?_⟩⟩
  · have := (hw.ran.trans (ran_delay _ Config.tSettleMs)).trans hr.ran
    simpa [configStep, configStepEvents, Config.tSettleMs] using this
  · exact hr.engine.trans (by simp [hw.engine])
  · exact hr.result.trans (by simp [hw.result])
  · exact hr.phases.trans (by simp [hw.phases])

theorem configure_performed (delay rate : Byte) (cs : Pin) (s : State) :
    ∃ a b c d : WriteBack,
      Performed s (configure delay rate cs s) (configEvents s.params cs delay rate a b c d)
        { s.engine with
          csHeld := none
          diag := s.engine.diag ++ diagsOf (configEvents s.params cs delay rate a b c d) }
        s.result := by
  unfold configure configSteps
  simp only [List.foldl_cons, List.foldl_nil]
  obtain ⟨a, ha⟩ := configStep_performed s.params.regMode2 s.params.mode2Value cs s
  generalize configStep s.params.regMode2 s.params.mode2Value cs s = s1 at ha ⊢
  obtain ⟨b, hb⟩ := configStep_performed s.params.regRefmux s.params.refmuxValue cs s1
  rw [ha.ran.params] at hb
  generalize configStep s.params.regRefmux s.params.refmuxValue cs s1 = s2 at hb ⊢
  obtain ⟨c, hc⟩ := configStep_performed s.params.regMode0 delay cs s2
  rw [hb.ran.params, ha.ran.params] at hc
  generalize configStep s.params.regMode0 delay cs s2 = s3 at hc ⊢
  obtain ⟨d, hd⟩ := configStep_performed s.params.regMode1 rate cs s3
  rw [hc.ran.params, hb.ran.params, ha.ran.params] at hd
  refine ⟨a, b, c, d, ((ha.trans hb).trans hc).trans hd |>.ran, ?_, ?_, ?_⟩
  · rw [hd.engine, hc.engine, hb.engine, ha.engine]
    simp [configEvents, configStepEvents, writeEvents, readEvents, windowEvents, diagsOf,
      List.filterMap_append, List.append_assoc]
  · rw [hd.result, hc.result, hb.result, ha.result]
  · rw [hd.phases, hc.phases, hb.phases, ha.phases]

theorem chipIdCheck_performed (cs : Pin) (s : State) :
    ∃ r0 r1 v : Byte, (chipIdCheck cs s).1 = v >>> s.params.idShift ∧
      Performed s (chipIdCheck cs s).2 (identityEvents s.params cs r0 r1 v)
        { s.engine with
          csHeld := none
          chipId := s.engine.chipId.write cs.toNat (v >>> s.params.idShift)
          diag := s.engine.diag ++ [identityDiag cs (v >>> s.params.idShift)] } s.result := by
  obtain ⟨r0, r1, h⟩ := readRegister_performed s.params.regId cs s
  refine ⟨r0, r1, _, rfl, ?_⟩
  unfold chipIdCheck identityEvents identityDiag Config.idExpected
  exact ⟨(h.ran.congr (ran_withEngine _ _)).trans (ran_diagnose _ _), by simp [h.engine],
    by simp [h.result], by simp [h.phases]⟩

theorem initDevice_performed (rate : Byte) (cs : Pin) (s : State) :
    ∃ r0 r1 v x : Byte, ∃ a b c d : WriteBack,
      let evs := identityEvents s.params cs r0 r1 v ++ windowEvents cs [(s.params.cmdStop, x)] ++
        configEvents s.params cs s.params.delay35us rate a b c d
      Performed s (initDevice rate cs s) evs
        { s.engine with
          csHeld := none
          rate := s.engine.rate.write cs.toNat rate
          chipId := s.engine.chipId.write cs.toNat (v >>> s.params.idShift)
          diag := s.engine.diag ++ diagsOf evs } s.result := by
  obtain ⟨r0, r1, v, -, h1⟩ := chipIdCheck_performed cs s
  obtain ⟨x, h2⟩ := stopConversions_performed cs (chipIdCheck cs s).2
  rw [h1.ran.params] at h2
  have hp := h2.ran.params.trans h1.ran.params
  obtain ⟨a, b, c, d, h3⟩ := configure_performed s.params.delay35us rate cs
    (stopConversions cs (chipIdCheck cs s).2)
  rw [hp] at h3
  refine ⟨r0, r1, v, x, a, b, c, d, ?_⟩
  have h := (h1.trans h2).trans h3
  unfold initDevice
  simp only [hp]
  refine ⟨h.ran.congr (ran_withEngine _ _), ?_, ?_, ?_⟩
  · simp only [State.withEngine_engine, h3.engine, h2.engine, h1.engine]
    simp [identityEvents, readEvents, windowEvents, diagsOf]
  · simp [h.result, h2.result, h1.result]
  · simp [h.phases]

theorem resetPulse_performed (rst : Pin) (s : State) :
    Performed s (resetPulse rst s)
      [.wr rst .high, .dly s.params.tResetMs, .wr rst .low, .dly s.params.tResetMs, .wr rst .high,
        .dly s.params.tResetMs] s.engine s.result :=
  ⟨(((((ran_pinWrite s rst .high).trans (ran_delay _ _)).trans (ran_pinWrite _ rst .low)).trans
    (ran_delay _ _)).trans (ran_pinWrite _ rst .high)).trans (ran_delay _ _), rfl, rfl, rfl⟩

end Sys2Proof.Machine
end

