-- ==== Sys2Proof/Laws/DataReady.lean ====
section
/-! SUPPORT. What a wait performs, for every answer (42_data_ready.md R130 to R133). -/

namespace Sys2Proof.Machine

/-- The poll loop from a poll count `n` below the bound, with rounds enough left. -/
theorem pollLoop_performed (drdy : Pin) : ∀ (rounds : Nat) (s : State),
    s.engine.poll < pollBound s.params → pollBound s.params ≤ s.engine.poll + rounds →
    ∃ w : Wait, Performed s (pollLoop drdy rounds s) (waitEvents drdy w)
        { s.engine with
          poll := s.engine.poll + w.highs
          diag := s.engine.diag ++ (if w.timedOut then [.readyTimeout drdy] else []) } s.result ∧
      Wait.Allowed s.params { w with highs := s.engine.poll + w.highs } := by
  intro rounds
  induction rounds with
  | zero => intro s h k; omega
  | succ rounds ih =>
    intro s hlt hle
    rw [pollLoop]
    have hrd := ran_pinRead s drdy
    cases hl : (s.pinRead drdy).1 with
    | low =>
      rw [hl] at hrd
      refine ⟨{ highs := 0, timedOut := false }, ⟨?_, ?_, ?_, ?_⟩, ?_⟩
      · simpa [waitEvents, hl] using hrd
      · simp
      · simp
      · simp
      · simpa [Wait.Allowed] using hlt
    | high =>
      rw [hl] at hrd
      have h1 : Ran s ((s.pinRead drdy).2.withEngine
          { (s.pinRead drdy).2.engine with poll := (s.pinRead drdy).2.engine.poll + 1 })
          [.rd drdy .high] := hrd.congr (ran_withEngine _ _)
      simp only [State.pinRead_engine] at h1 ⊢
      simp only [State.withEngine_params, State.withEngine_engine, State.pinRead_params]
      by_cases hlim : s.params.readyPollLimit ≤ s.engine.poll + 1
      · simp only [hlim, if_true]
        have hb : pollBound s.params = s.engine.poll + 1 := by
          unfold pollBound at *; omega
        refine ⟨{ highs := 1, timedOut := true }, ⟨?_, ?_, ?_, ?_⟩, ?_⟩
        · simpa [waitEvents] using h1.trans (ran_diagnose _ (.readyTimeout drdy))
        · simp
        · simp
        · simp
        · simp [Wait.Allowed, hb]
      · simp only [hlim, if_false]
        have hlt' : s.engine.poll + 1 < pollBound s.params := by
          unfold pollBound at *; omega
        obtain ⟨w, hw, ha⟩ := ih ((s.pinRead drdy).2.withEngine
          { s.engine with poll := s.engine.poll + 1 })
          (by simpa using hlt') (by simp; omega)
        refine ⟨{ highs := w.highs + 1, timedOut := w.timedOut }, ⟨?_, ?_, ?_, ?_⟩, ?_⟩
        · have := h1.trans hw.ran
          simpa [waitEvents, List.replicate_succ] using this
        · rw [hw.engine]
          simp [Nat.add_assoc, Nat.add_comm 1]
        · rw [hw.result]; rfl
        · rw [hw.phases]; rfl
        · simpa [Nat.add_assoc, Nat.add_comm 1] using ha

theorem waitReady_performed (drdy : Pin) (s : State) :
    ∃ w : Wait, w.Allowed s.params ∧
      Performed s (waitReady drdy s) (waitEvents drdy w)
        { s.engine with
          poll := w.highs
          diag := s.engine.diag ++ (if w.timedOut then [.readyTimeout drdy] else []) } s.result := by
  obtain ⟨w, hw, ha⟩ := pollLoop_performed drdy (s.params.readyPollLimit + 1)
    (s.withEngine { s.engine with poll := 0 })
    (by simp [pollBound]) (by simp [pollBound])
  unfold waitReady
  refine ⟨w, by simpa using ha, ⟨?_, ?_, ?_, ?_⟩⟩
  · simpa using (ran_withEngine s _).trans hw.ran
  · simpa using hw.engine
  · exact hw.result
  · exact hw.phases

end Sys2Proof.Machine
end

