-- ==== Sys2Proof/Laws/Operands.lean ====
section
/-! SUPPORT. The byte places of a 32-bit value: what the sample assembly and the request's 32-bit operand are,
byte for byte (20_memory.md R54; 30_encoding.md R87, R88). -/

namespace Sys2Proof

open Sys2Proof.Machine

/-- Shifted and OR-ed together the four bytes stand side by side. -/
theorem assembleSample_eq_append (d3 d2 d1 d0 : Byte) : assembleSample d3 d2 d1 d0 = d3 ++ d2 ++ d1 ++ d0 := by
  symm
  apply BitVec.eq_of_getLsbD_eq
  intro i hi
  erw [BitVec.getLsbD_append, BitVec.getLsbD_append, BitVec.getLsbD_append]
  simp only [assembleSample, BitVec.getLsbD_or, BitVec.getLsbD_shiftLeft, BitVec.zeroExtend,
    BitVec.getLsbD_setWidth]
  interval_cases i <;> simp

theorem assembleSample_byte0 (d3 d2 d1 d0 : Byte) : (assembleSample d3 d2 d1 d0).extractLsb' 0 8 = d0 := by
  ext i hi; simp [assembleSample]; interval_cases i <;> simp
theorem assembleSample_byte1 (d3 d2 d1 d0 : Byte) : (assembleSample d3 d2 d1 d0).extractLsb' 8 8 = d1 := by
  ext i hi; simp [assembleSample]; interval_cases i <;> simp
theorem assembleSample_byte2 (d3 d2 d1 d0 : Byte) : (assembleSample d3 d2 d1 d0).extractLsb' 16 8 = d2 := by
  ext i hi; simp [assembleSample]; interval_cases i <;> simp
theorem assembleSample_byte3 (d3 d2 d1 d0 : Byte) : (assembleSample d3 d2 d1 d0).extractLsb' 24 8 = d3 := by
  ext i hi; simp [assembleSample]; interval_cases i <;> simp

/-- Every value is the assembly of its four bytes. -/
theorem assembleSample_extract (v : Word) :
    assembleSample (v.extractLsb' 24 8) (v.extractLsb' 16 8) (v.extractLsb' 8 8) (v.extractLsb' 0 8) = v := by
  ext i hi
  simp [assembleSample]
  interval_cases i <;> simp

/-- The 32-bit operand of a request is assembled like a sample (R88). -/
theorem wordOfBytes_eq (b3 b2 b1 b0 : Byte) : wordOfBytes b3 b2 b1 b0 = assembleSample b3 b2 b1 b0 :=
  (assembleSample_eq_append b3 b2 b1 b0).symm

theorem wordOfBytes_bytesOfWord (v : Word) :
    wordOfBytes (v.extractLsb' 24 8) (v.extractLsb' 16 8) (v.extractLsb' 8 8) (v.extractLsb' 0 8) = v := by
  rw [wordOfBytes_eq, assembleSample_extract]

theorem bytesOfWord_wordOfBytes (b3 b2 b1 b0 : Byte) :
    bytesOfWord (wordOfBytes b3 b2 b1 b0) = [b3, b2, b1, b0] := by
  simp only [wordOfBytes_eq, bytesOfWord, assembleSample_byte0, assembleSample_byte1, assembleSample_byte2,
    assembleSample_byte3]

end Sys2Proof
end

