-- ==== Sys2Proof/Laws/Scanner.lean ====
section
/-! SUPPORT. What the channel selection, the framed read and a channel read perform, for every answer
(44_scanner.md R160 to R172). -/

namespace Sys2Proof.Machine

theorem selectChannel_of_invalid {ch : Byte} {cs : Pin} {s : State} (h : channelValid ch = false) :
    selectChannel ch cs s = s := by
  simp [selectChannel, h]

theorem selectChannel_performed {ch : Byte} (cs : Pin) (s : State) (h : channelValid ch = true) :
    ∃ a : WriteBack, Performed s (selectChannel ch cs s) (selectEvents s.params cs ch a)
      { s.engine with
        csHeld := none
        diag := s.engine.diag ++ diagsOf (selectEvents s.params cs ch a) } s.result := by
  obtain ⟨w0, w1, w2, hw⟩ := writeRegister_performed s.params.regInpmux (muxByte ch) cs s
  obtain ⟨r0, r1, v, hr⟩ := verifyRegister_performed s.params.regInpmux (muxByte ch) cs
    (writeRegister s.params.regInpmux (muxByte ch) cs s)
  rw [hw.ran.params] at hr
  refine ⟨⟨w0, w1, w2, r0, r1, v⟩, ?_⟩
  have ht := hw.trans hr
  simp only [selectChannel, h, if_true]
  refine ⟨?_, ?_, ?_, ht.phases⟩
  · simpa [selectEvents, muxByte, Config.muxnCommon] using ht.ran
  · rw [hr.engine, hw.engine]
    simp [selectEvents, writeEvents, readEvents, windowEvents, diagsOf, muxByte, Config.muxnCommon]
  · rw [hr.result, hw.result]

theorem rdByte_performed (s : State) :
    Performed s s.rdByte.2 [.xfer 0x00 s.rdByte.1] s.engine s.result :=
  ⟨ran_rdByte s, rfl, rfl, rfl⟩

theorem framedRead_performed (cs : Pin) (s : State) :
    Performed s (framedRead cs s).2 (frameEvents cs (framedRead cs s).1)
      { s.engine with csHeld := none, frame := some (framedRead cs s).1 } s.result := by
  have h0 : Performed s (s.assertCs cs) [.wr cs .low] { s.engine with csHeld := some cs } s.result :=
    ⟨ran_assertCs s cs, rfl, rfl, rfl⟩
  unfold framedRead
  dsimp only
  generalize s.assertCs cs = s1 at h0 ⊢
  have h1 := h0.trans (rdByte_performed s1)
  generalize s1.rdByte = x1 at h1 ⊢
  have h2 := h1.trans (rdByte_performed x1.2)
  generalize x1.2.rdByte = x2 at h2 ⊢
  have h3 := h2.trans (rdByte_performed x2.2)
  generalize x2.2.rdByte = x3 at h3 ⊢
  have h4 := h3.trans (rdByte_performed x3.2)
  generalize x3.2.rdByte = x4 at h4 ⊢
  have h5 := h4.trans (rdByte_performed x4.2)
  generalize x4.2.rdByte = x5 at h5 ⊢
  have h6 := h5.trans (rdByte_performed x5.2)
  generalize x5.2.rdByte = x6 at h6 ⊢
  refine ⟨(h6.ran.trans (ran_releaseCs _ cs)).congr (ran_withEngine _ _), ?_, ?_, ?_⟩
  · simp [h6.engine, h5.engine, h4.engine, h3.engine, h2.engine, h1.engine, h0.engine]
  · simp [h6.result, h5.result, h4.result, h3.result, h2.result, h1.result, h0.result]
  · simp [h6.phases]

/-- The check of R120 as a sum of naturals. -/
theorem framePasses_iff (f : Frame) : framePasses f.value f.chk = true ↔ f.Good := by
  obtain ⟨st, d3, d2, d1, d0, ck⟩ := f
  have h0 : (assembleSample d3 d2 d1 d0).extractLsb' 0 8 = d0 := by
    ext i hi; simp [assembleSample]; interval_cases i <;> simp
  have h1 : (assembleSample d3 d2 d1 d0).extractLsb' 8 8 = d1 := by
    ext i hi; simp [assembleSample]; interval_cases i <;> simp
  have h2 : (assembleSample d3 d2 d1 d0).extractLsb' 16 8 = d2 := by
    ext i hi; simp [assembleSample]; interval_cases i <;> simp
  have h3 : (assembleSample d3 d2 d1 d0).extractLsb' 24 8 = d3 := by
    ext i hi; simp [assembleSample]; interval_cases i <;> simp
  simp only [framePasses, checksum, expectedCheck, byteSum, Frame.value, Frame.Good, h0, h1, h2, h3,
    Config.chkConst, decide_eq_true_eq]
  rw [show (0x00 : Byte) = 0#8 from rfl, BitVec.xor_eq_zero_iff, ← BitVec.toNat_inj]
  simp only [BitVec.toNat_add, BitVec.ofNat_eq_ofNat, BitVec.toNat_ofNat]
  omega

/-- The retry loop, entered after a wait `w`, with `n` framed reads made and rounds enough left. -/
theorem retryLoop_ran (ch : Byte) (cs drdy : Pin) : ∀ (rounds : Nat) (s : State) (w : Wait),
    w.Allowed s.params → s.engine.poll = w.highs → s.engine.attempt < 50 →
    50 ≤ s.engine.attempt + rounds →
    ∃ (rs : List ReadRound) (ok : Bool) (evs : List Event),
      RoundsReturn s.params s.engine.attempt rs ok (retryLoop ch cs drdy rounds s).1 ∧
      waitEvents drdy w ++ evs =
        roundsEvents cs ch drdy s.engine.attempt rs ++ endEvents cs ch ok ∧
      Ran s (retryLoop ch cs drdy rounds s).2 evs ∧
      (retryLoop ch cs drdy rounds s).2.engine =
        { s.engine with
          csHeld := none
          phase := .idle
          attempt := s.engine.attempt + rs.length
          poll := (rs.getLast?.map fun r => r.wait.highs).getD 0
          frame := rs.getLast?.map ReadRound.frame
          diag := s.engine.diag ++ diagsOf evs } ∧
      (retryLoop ch cs drdy rounds s).2.phases = s.phases ++ loopPhases rs.length ok ∧
      (retryLoop ch cs drdy rounds s).2.result = s.result := by
  intro rounds
  induction rounds with
  | zero => intro s w _ _ h k; omega
  | succ rounds ih =>
    intro s w hw hpoll hlt hle
    have hf := framedRead_performed cs (s.setPhase .reading)
    generalize hr : framedRead cs (s.setPhase .reading) = r at hf
    obtain ⟨f, t⟩ := r
    have hran : Ran s t (frameEvents cs f) := by simpa using (ran_setPhase s .reading).trans hf.ran
    have heng : t.engine = { s.engine with csHeld := none, phase := .reading, frame := some f } := by
      simpa using hf.engine
    have hph : t.phases = s.phases ++ [.reading] := by simpa using hf.phases
    have hres : t.result = s.result := by simpa using hf.result
    have hdf : diagsOf (frameEvents cs f) = [] := by simp [diagsOf, frameEvents, windowEvents]
    rw [retryLoop]
    simp only [attemptRead, hr]
    by_cases hgood : f.Good
    · have hpass : framePasses f.value f.chk = true := (framePasses_iff f).2 hgood
      simp only [hpass, if_true]
      refine ⟨[⟨w, f⟩], true, frameEvents cs f, ⟨by simp, by simp; omega, by simpa using hw, by simp,
        by simpa using hgood⟩, ?_, ?_, ?_, ?_, ?_⟩
      · simp [roundsEvents, endEvents, hgood]
      · exact ((hran.congr (ran_withEngine _ _)).congr (ran_setPhase _ _)).congr (ran_setPhase _ _)
      · simp [heng, hdf, hpoll]
      · simp [hph, loopPhases]
      · simp [hres]
    · have hpass : framePasses f.value f.chk = false := by
        rw [← Bool.not_eq_true, framePasses_iff]; exact hgood
      simp only [hpass, Bool.false_eq_true, if_false]
      generalize hs1 : ((t.withEngine { t.engine with attempt := t.engine.attempt + 1 }).setPhase
        .retrying).diagnose (.chkFail cs ch (t.withEngine { t.engine with
          attempt := t.engine.attempt + 1 }).engine.attempt f.value f.chk) = s1
      have h1 : Ran s s1 (frameEvents cs f ++
          [.dg (.chkFail cs ch (s.engine.attempt + 1) f.value f.chk)]) := by
        rw [← hs1]
        simpa [heng] using ((hran.congr (ran_withEngine t _)).congr (ran_setPhase _ .retrying)).trans
          (ran_diagnose _ (.chkFail cs ch (t.engine.attempt + 1) f.value f.chk))
      have e1 : s1.engine = { s.engine with
          csHeld := none, phase := .retrying, frame := some f, attempt := s.engine.attempt + 1
          diag := s.engine.diag ++ [.chkFail cs ch (s.engine.attempt + 1) f.value f.chk] } := by
        rw [← hs1]; simp [heng]
      have p1 : s1.phases = s.phases ++ [.reading, .retrying] := by
        rw [← hs1]; simp [hph]
      have r1 : s1.result = s.result := by rw [← hs1]; simp [hres]
      by_cases hlim : Config.retryLimit ≤ s1.engine.attempt
      · simp only [hlim, if_true]
        have hn : s.engine.attempt + 1 = 50 := by
          simp only [e1, Config.retryLimit] at hlim; omega
        refine ⟨[⟨w, f⟩], false, _, ⟨by simp, by simp; omega, by simpa using hw, by simp, ?_⟩, ?_,
          ((h1.congr (ran_setPhase _ .failed)).trans (ran_diagnose _ (.readFailed cs ch))).congr
            (ran_setPhase _ .idle), ?_, ?_, ?_⟩
        · simpa [Config.failValue, hn] using hgood
        · simp [roundsEvents, endEvents, hgood]
        · simp [e1, hpoll, diagsOf]
          simpa [diagsOf] using hdf
        · simp [p1, loopPhases]
        · simp [r1]
      · simp only [hlim, if_false]
        have hn : s.engine.attempt + 1 < 50 := by
          simp only [e1, Config.retryLimit] at hlim; omega
        obtain ⟨w2, hw2, hwait⟩ := waitReady_performed drdy s1
        have ep : s1.params = s.params := h1.params
        obtain ⟨rs, ok, evs, hret, hevs, hran2, heng2, hph2, hres2⟩ := ih (waitReady drdy s1) w2
          (by rw [hwait.ran.params]; exact hw2) (by rw [hwait.engine]) (by rw [hwait.engine, e1]; exact hn)
          (by rw [hwait.engine, e1]; simp; omega)
        have ea : (waitReady drdy s1).engine.attempt = s.engine.attempt + 1 := by rw [hwait.engine, e1]
        have ep2 : (waitReady drdy s1).params = s.params := by rw [hwait.ran.params, ep]
        rw [ea] at hevs hret heng2
        rw [ep2] at hret
        obtain ⟨r0, rs', rfl⟩ : ∃ r0 rs', rs = r0 :: rs' := by
          cases rs with
          | nil => exact absurd rfl hret.nonempty
          | cons a b => exact ⟨a, b, rfl⟩
        have hlen := hret.most
        refine ⟨⟨w, f⟩ :: r0 :: rs', ok, _, ⟨by simp, ?_, ?_, ?_, ?_⟩, ?_,
          (h1.trans hwait.ran).trans hran2, ?_, ?_, ?_⟩
        · simp at hlen ⊢; omega
        · intro q hq
          rcases List.mem_cons.1 hq with rfl | hq
          · exact hw
          · exact hret.waits q hq
        · intro q hq
          rw [List.dropLast_cons_cons] at hq
          rcases List.mem_cons.1 hq with rfl | hq
          · exact hgood
          · exact hret.earlier q hq
        · intro q hq
          have := hret.last q (by simpa using hq)
          simpa [Nat.add_assoc, Nat.add_comm 1, Nat.add_left_comm 1] using this
        · rw [roundsEvents]
          simp only [hgood, if_false, List.append_assoc, hevs]
        · rw [heng2, hwait.engine, e1]
          have hdw : diagsOf (waitEvents drdy w2) = if w2.timedOut then [.readyTimeout drdy] else [] := by
            simp only [diagsOf, waitEvents, List.filterMap_append]
            have : List.filterMap (fun x => match x with
              | .dg d => some d
              | .cfg _ _ => none | .wr _ _ => none | .rd _ _ => none | .xfer _ _ => none
              | .dly _ => none) (List.replicate w2.highs (Event.rd drdy .high)) = ([] : List Diag) := by
              rw [List.filterMap_eq_nil_iff]
              intro a ha
              rw [List.eq_of_mem_replicate ha]
            cases w2.timedOut <;> simp
          have hd : diagsOf (frameEvents cs f ++ [.dg (.chkFail cs ch (s.engine.attempt + 1) f.value f.chk)]
              ++ waitEvents drdy w2 ++ evs) =
              [.chkFail cs ch (s.engine.attempt + 1) f.value f.chk] ++
                (if w2.timedOut then [.readyTimeout drdy] else []) ++ diagsOf evs := by
            rw [← hdw]
            simp only [diagsOf, List.filterMap_append] at hdf ⊢
            simp [hdf]
          rw [hd]
          simp [Nat.add_assoc, Nat.add_comm 1]
        · rw [hph2, hwait.phases, p1]
          simp [loopPhases]
        · rw [hres2, hwait.result, r1]

theorem diagsOf_append (a b : List Event) : diagsOf (a ++ b) = diagsOf a ++ diagsOf b := by
  simp [diagsOf]

theorem diagsOf_window (cs : Pin) (bytes : List (Byte × Byte)) : diagsOf (windowEvents cs bytes) = [] := by
  simp [diagsOf, windowEvents, List.filterMap_append, List.filterMap_map]

theorem diagsOf_wait (drdy : Pin) (w : Wait) :
    diagsOf (waitEvents drdy w) = if w.timedOut then [.readyTimeout drdy] else [] := by
  have h : diagsOf (List.replicate w.highs (Event.rd drdy .high)) = [] := by
    rw [diagsOf, List.filterMap_eq_nil_iff]
    intro a ha
    rw [List.eq_of_mem_replicate ha]
  rw [waitEvents, diagsOf_append, h]
  cases w.timedOut <;> simp [diagsOf]

/-- A read of an invalid channel is its stop command (R169). -/
theorem readChannel_of_invalid {ch : Byte} {cs drdy : Pin} {s : State} (h : channelValid ch = false) :
    readChannel ch cs drdy s = (0x00000000, stopConversions cs s) := by
  simp [readChannel, h, Config.invalidChValue]

/-- A read of a valid channel (R166). -/
theorem readChannel_ran {ch : Byte} (cs drdy : Pin) (s : State) (h : channelValid ch = true) :
    ChannelRead s (readChannel ch cs drdy s).2 ch cs drdy (readChannel ch cs drdy s).1 ∧
      (readChannel ch cs drdy s).2.result = s.result := by
  simp only [readChannel, h, if_true, convertAndRead]
  obtain ⟨x, hx⟩ := stopConversions_performed cs s
  generalize stopConversions cs s = s1 at hx ⊢
  obtain ⟨a, ha⟩ := selectChannel_performed cs (s1.setPhase .selecting) h
  generalize selectChannel ch cs (s1.setPhase .selecting) = s2 at ha ⊢
  obtain ⟨y, hy⟩ := startConversions_performed cs s2
  generalize startConversions cs s2 = s3 at hy ⊢
  obtain ⟨w, hw, hwait⟩ := waitReady_performed drdy ((s3.setPhase .converting).setPhase .waitingReady)
  generalize waitReady drdy ((s3.setPhase .converting).setPhase .waitingReady) = s4 at hwait ⊢
  have p1 : s1.params = s.params := hx.ran.params
  have p2 : s2.params = s.params := ha.ran.params.trans p1
  have p3 : s3.params = s.params := hy.ran.params.trans p2
  have p4 : s4.params = s.params := hwait.ran.params.trans p3
  have r1 := ((hx.ran.congr (ran_setPhase s1 .selecting)).trans ha.ran).trans hy.ran
  have r4 := (((r1.congr (ran_setPhase s3 .converting)).congr (ran_setPhase _ .waitingReady)).trans
    hwait.ran).congr (ran_withEngine s4 { s4.engine with attempt := 0 })
  obtain ⟨rs, ok, evs, hret, hevs, hran, heng, hph, hres⟩ := retryLoop_ran ch cs drdy
    (Config.retryLimit + 1) (s4.withEngine { s4.engine with attempt := 0 }) w
    (by simpa [p4, p3] using hw) (by simp [hwait.engine]) (by simp) (by simp [Config.retryLimit])
  have hev : windowEvents cs [(s.params.cmdStop, x)] ++ selectEvents s.params cs ch a ++
      windowEvents cs [(s.params.cmdStart, y)] ++ waitEvents drdy w ++ evs =
      channelEvents s.params cs ch drdy x a y rs ok := by
    simp only [channelEvents, List.append_assoc, hevs]
    simp
  have hdg : diagsOf (channelEvents s.params cs ch drdy x a y rs ok) =
      diagsOf (selectEvents s.params cs ch a) ++
        (if w.timedOut then [.readyTimeout drdy] else []) ++ diagsOf evs := by
    rw [← hev]
    simp [diagsOf_append, diagsOf_window, diagsOf_wait]
  refine ⟨⟨x, a, y, rs, ok, ?_, ?_, ?_, ?_⟩, ?_⟩
  · simpa [p4] using hret
  · rw [← hev]
    simpa [p1, p2] using r4.trans hran
  · rw [heng, hdg]
    simp [hwait.engine, hy.engine, ha.engine, hx.engine, p1]
  · rw [hph]
    simp [hwait.phases, hy.phases, ha.phases, hx.phases]
  · rw [hres]
    simp [hwait.result, hy.result, ha.result, hx.result]

end Sys2Proof.Machine
end

