-- ==== Sys2Proof/Laws/Orchestrator.lean ====
section
/-! SUPPORT. What a channel read of any channel and a scan of a channel list do, for every answer
(45_orchestrator.md R180 to R183), and which fields they do not look at. -/

namespace Sys2Proof.Machine

/-- A read of a channel, valid or not: some events, in which the engine record changes only where a channel
read writes it. -/
theorem readChannel_changes (ch : Byte) (cs drdy : Pin) (s : State) :
    ∃ evs, Ran s (readChannel ch cs drdy s).2 evs ∧
      (readChannel ch cs drdy s).2.engine =
        { s.engine with
          csHeld := none
          phase := (readChannel ch cs drdy s).2.engine.phase
          attempt := (readChannel ch cs drdy s).2.engine.attempt
          poll := (readChannel ch cs drdy s).2.engine.poll
          frame := (readChannel ch cs drdy s).2.engine.frame
          diag := s.engine.diag ++ diagsOf evs } ∧
      (readChannel ch cs drdy s).2.result = s.result := by
  cases h : channelValid ch with
  | false =>
    obtain ⟨r0, hr⟩ := stopConversions_performed cs s
    rw [readChannel_of_invalid h]
    exact ⟨_, hr.ran, by simp [hr.engine, diagsOf_window], hr.result⟩
  | true =>
    obtain ⟨⟨x, a, y, rs, ok, -, hran, heng, -⟩, hres⟩ := readChannel_ran cs drdy s h
    exact ⟨_, hran, by rw [heng], hres⟩

/-- A scan is the scan of the first part of the list, then of the rest (R180). -/
theorem scanLoop_append (cs drdy : Pin) (a b : List Byte) :
    ∀ s : State, scanLoop cs drdy (a ++ b) s = scanLoop cs drdy b (scanLoop cs drdy a s) := by
  induction a with
  | nil => intro s; rfl
  | cons ch a ih => intro s; exact ih _

/-- The loop of R180: one value per entry, appended to `E.out`. -/
theorem scanLoop_changes (cs drdy : Pin) : ∀ (list : List Byte) (s : State),
    ∃ (vs : List Word) (evs : List Event), vs.length = list.length ∧
      (∀ (k : Nat) (ch : Byte), list[k]? = some ch → channelValid ch = false → vs[k]? = some 0) ∧
      Ran s (scanLoop cs drdy list s) evs ∧
      (scanLoop cs drdy list s).engine =
        { s.engine with
          csHeld := (scanLoop cs drdy list s).engine.csHeld
          phase := (scanLoop cs drdy list s).engine.phase
          attempt := (scanLoop cs drdy list s).engine.attempt
          poll := (scanLoop cs drdy list s).engine.poll
          frame := (scanLoop cs drdy list s).engine.frame
          diag := s.engine.diag ++ diagsOf evs
          out := s.engine.out ++ vs
          idx := s.engine.idx + list.length } ∧
      (scanLoop cs drdy list s).result = s.result := by
  intro list
  induction list with
  | nil => intro s; exact ⟨[], [], rfl, by simp, Ran.refl s, by simp [scanLoop, diagsOf], rfl⟩
  | cons ch rest ih =>
    intro s
    obtain ⟨e1, hran, heng, hres⟩ := readChannel_changes ch cs drdy s
    obtain ⟨vs, e2, hlen, hzero, hran2, heng2, hres2⟩ := ih ((readChannel ch cs drdy s).2.withEngine
      { (readChannel ch cs drdy s).2.engine with
        out := (readChannel ch cs drdy s).2.engine.out ++ [(readChannel ch cs drdy s).1]
        idx := (readChannel ch cs drdy s).2.engine.idx + 1 })
    refine ⟨(readChannel ch cs drdy s).1 :: vs, e1 ++ e2, by simp [hlen], ?_,
      (hran.congr (ran_withEngine _ _)).trans hran2, ?_, hres2.trans hres⟩
    · rintro (_ | k) c hk hc
      · simp only [List.getElem?_cons_zero, Option.some.injEq] at hk ⊢
        subst hk
        rw [readChannel_of_invalid hc]
      · simpa using hzero k c (by simpa using hk) hc
    · rw [scanLoop, heng2]
      simp only [State.withEngine_engine]
      rw [heng]
      simp [diagsOf_append, Nat.add_assoc, Nat.add_comm 1]

end Sys2Proof.Machine
end

