-- ==== Sys2Proof/Laws/PerInstr.lean ====
section
/-! SUPPORT. A statement about every operation as syntax, one lemma per constructor: the length of its
encoding (30_encoding.md R89 for a request; R82 to R85 for a wire row). -/

namespace Sys2Proof.Laws.EncodingLength

open Sys2Proof

/-- The length in bytes the tables give an operation's encoding (R82 to R85, R89); a reserved request is its
id byte (log entry 11). -/
def encodedLength : Instr → Nat
  | .wcmd _ _ => 3
  | .wreg _ _ _ => 4
  | .rreg _ _ => 3
  | .chksum _ _ => 6
  | .waitrdy _ => 2
  | .chipid _ => 2
  | .config _ _ _ => 4
  | .init _ _ => 3
  | .setmode _ => 2
  | .selch _ _ => 3
  | .framerd _ => 2
  | .rdchan _ _ _ => 4
  | .rdchans list _ _ => 4 + list.length
  | .resetdev _ => 2
  | .shutdown => 1
  | .reserved _ => 1
  | .wireCmd _ _ => 1
  | .stop _ => 1
  | .start _ => 1
  | .wireWreg _ _ _ => 3
  | .wireRreg _ _ => 3
  | .wireFrame _ => 6

/-- The encoding has the length the tables give, for every parameter set. -/
def Statement (i : Instr) : Prop := ∀ p : Params, (encode p i).length = encodedLength i

theorem wcmd (cmd : Byte) (cs : Pin) : Statement (.wcmd cmd cs) := fun _ => rfl
theorem wreg (reg data : Byte) (cs : Pin) : Statement (.wreg reg data cs) := fun _ => rfl
theorem rreg (reg : Byte) (cs : Pin) : Statement (.rreg reg cs) := fun _ => rfl
theorem chksum (value : Word) (rx : Byte) : Statement (.chksum value rx) := fun _ => rfl
theorem waitrdy (drdy : Pin) : Statement (.waitrdy drdy) := fun _ => rfl
theorem chipid (cs : Pin) : Statement (.chipid cs) := fun _ => rfl
theorem config (delay rate : Byte) (cs : Pin) : Statement (.config delay rate cs) := fun _ => rfl
theorem init (rate : Byte) (cs : Pin) : Statement (.init rate cs) := fun _ => rfl
theorem setmode (mode : Byte) : Statement (.setmode mode) := fun _ => rfl
theorem selch (ch : Byte) (cs : Pin) : Statement (.selch ch cs) := fun _ => rfl
theorem framerd (cs : Pin) : Statement (.framerd cs) := fun _ => rfl
theorem rdchan (ch : Byte) (cs drdy : Pin) : Statement (.rdchan ch cs drdy) := fun _ => rfl
theorem rdchans (list : List Byte) (cs drdy : Pin) : Statement (.rdchans list cs drdy) := fun _ => by
  simp [encode, encodedLength]
  omega
theorem resetdev (rst : Pin) : Statement (.resetdev rst) := fun _ => rfl
theorem shutdown : Statement .shutdown := fun _ => rfl
theorem reserved (id : Byte) : Statement (.reserved id) := fun _ => rfl
theorem wireCmd (cmd : Byte) (cs : Pin) : Statement (.wireCmd cmd cs) := fun _ => rfl
theorem stop (cs : Pin) : Statement (.stop cs) := fun _ => rfl
theorem start (cs : Pin) : Statement (.start cs) := fun _ => rfl
theorem wireWreg (reg data : Byte) (cs : Pin) : Statement (.wireWreg reg data cs) := fun _ => rfl
theorem wireRreg (reg : Byte) (cs : Pin) : Statement (.wireRreg reg cs) := fun _ => rfl
theorem wireFrame (cs : Pin) : Statement (.wireFrame cs) := fun _ => rfl

end Sys2Proof.Laws.EncodingLength
end

