-- ==== Sys2Proof/Laws/Reset.lean ====
section
/-! SUPPORT. What a list of events does when it is emitted whole, and what engine reset leaves
(70_reset_and_hazards.md R220, R221). -/

namespace Sys2Proof.Machine

theorem foldl_emit (evs : List Event) : ∀ s : State, evs.foldl State.emit s =
    { s with
      trace := s.trace ++ evs, pins := s.pins.applyAll evs, env := s.env.observeAll s.params evs } := by
  induction evs with
  | nil => intro s; simp
  | cons ev t ih => intro s; simp [ih, State.emit]

/-- Engine reset, field by field. -/
theorem engineReset_eq (s : State) : s.engineReset =
    { s with
      engine := .reset, resetIn := false, result := .none
      trace := s.trace ++ bringUpEvents s.params.pinmap
      pins := s.pins.applyAll (bringUpEvents s.params.pinmap)
      env := s.env.observeAll s.params (bringUpEvents s.params.pinmap) } := by
  rw [State.engineReset, foldl_emit]

theorem applyAll_bringUpDevice (d : DevicePins) (s : Pins) : s.applyAll (bringUpDevice d) =
    { dir := Table.set (Table.set (Table.set s.dir d.rst.toNat .output) d.cs.toNat .output) d.drdy.toNat
        .input
      out := Table.set (Table.set s.out d.cs.toNat .high) d.rst.toNat .high } := rfl

/-- The bring-up of a list of devices is that of the first, then that of the rest. -/
theorem applyAll_bringUpEvents_cons (d : DevicePins) (rest : List DevicePins) (s : Pins) :
    s.applyAll (bringUpEvents (d :: rest)) =
      (s.applyAll (bringUpDevice d)).applyAll (bringUpEvents rest) := by
  simp only [bringUpEvents, List.flatMap_cons, Pins.applyAll_append]

end Sys2Proof.Machine
end

