-- ==== Sys2Proof/Laws/Table.lean ====
section
/-! SUPPORT. The laws of the sparse maps: a read after a write, and the canonical form kept by every
operation that makes a map. -/

namespace Sys2Proof.Machine

variable {α : Type}

@[simp] theorem Table.get_nil (k : Nat) : Table.get ([] : Table α) k = none := rfl

/-- What is read at `j` after a write at `k`. -/
theorem Table.get_set (t : Table α) (k j : Nat) (v : α) :
    Table.get (Table.set t k v) j = if k = j then some v else Table.get t j := by
  induction t with
  | nil => rfl
  | cons e t ih =>
    obtain ⟨a, w⟩ := e
    simp only [Table.set]
    split
    · simp only [Table.get]
    · split
      · subst_vars
        simp only [Table.get]
        split <;> rfl
      · simp only [Table.get, ih]
        split
        · subst_vars
          simp_all
        · rfl

theorem Table.get_set_self (t : Table α) (k : Nat) (v : α) :
    Table.get (Table.set t k v) k = some v := by
  simp [Table.get_set]

theorem Table.get_set_of_ne (t : Table α) {k j : Nat} (v : α) (h : j ≠ k) :
    Table.get (Table.set t k v) j = Table.get t j := by
  simp [Table.get_set, h.symm]

/-- The canonical form by its first entry. -/
theorem Table.wf_cons (a : Nat) (v : α) (t : Table α) :
    Table.wf ((a, v) :: t) = true ↔ (∀ b w t', t = (b, w) :: t' → a < b) ∧ Table.wf t = true := by
  cases t with
  | nil => simp [Table.wf]
  | cons e t =>
    obtain ⟨b, w⟩ := e
    constructor
    · intro h
      simp only [Table.wf, Bool.and_eq_true, decide_eq_true_eq] at h
      refine ⟨?_, h.2⟩
      rintro b' w' t' heq
      cases heq
      exact h.1
    · rintro ⟨h, hw⟩
      simp only [Table.wf, Bool.and_eq_true, decide_eq_true_eq]
      exact ⟨h b w t rfl, hw⟩

/-- The first address of a map after a write is the written one or the first before. -/
theorem Table.set_head (t : Table α) (k : Nat) (v : α) :
    ∀ b w t', Table.set t k v = (b, w) :: t' → b = k ∨ ∃ w' t'', t = (b, w') :: t'' := by
  cases t with
  | nil =>
    rintro b w t' h
    simp only [Table.set, List.cons.injEq, Prod.mk.injEq] at h
    exact .inl h.1.1.symm
  | cons e t =>
    obtain ⟨a, u⟩ := e
    rintro b w t' h
    simp only [Table.set] at h
    split at h
    · simp only [List.cons.injEq, Prod.mk.injEq] at h
      exact .inl h.1.1.symm
    · split at h
      · simp only [List.cons.injEq, Prod.mk.injEq] at h
        exact .inl h.1.1.symm
      · simp only [List.cons.injEq, Prod.mk.injEq] at h
        exact .inr ⟨u, t, by rw [h.1.1]⟩

/-- A write keeps the canonical form. -/
theorem Table.wf_set (t : Table α) (k : Nat) (v : α) (h : Table.wf t = true) :
    Table.wf (Table.set t k v) = true := by
  induction t with
  | nil => rfl
  | cons e t ih =>
    obtain ⟨a, w⟩ := e
    rw [Table.wf_cons] at h
    simp only [Table.set]
    split
    · rename_i hlt
      rw [Table.wf_cons]
      refine ⟨?_, (Table.wf_cons a w t).2 h⟩
      rintro b w' t' heq
      cases heq
      exact hlt
    · split
      · subst_vars
        exact (Table.wf_cons _ v t).2 h
      · rw [Table.wf_cons]
        refine ⟨?_, ih h.2⟩
        intro b w' t' heq
        rcases Table.set_head t k v b w' t' heq with rfl | ⟨w'', t'', ht⟩
        · omega
        · exact h.1 b w'' t'' ht

theorem Memory.wf_write (m : Memory) (k : Nat) (v : Byte) (h : m.wf = true) :
    (m.write k v).wf = true :=
  Table.wf_set m k v h

theorem Memory.read_write (m : Memory) (k j : Nat) (v : Byte) :
    (m.write k v).read j = if k = j then some v else m.read j :=
  Table.get_set m k j v

end Sys2Proof.Machine
end

