-- ==== Sys2Proof/Tests/Slice0.lean ====
section
/-! SUPPORT. The model's own tests: refused ill-formed terms, words written out from the spec's encodings,
vectors of 95_test_vectors.md, and for every obligation with hypotheses a state and operands that meet them
together. -/

namespace Sys2Proof.Tests

open Sys2Proof Sys2Proof.Machine

set_option maxRecDepth 8000

/-! ### Helpers -/

/-- The machine after reset under P0 with the given environment, its trace cleared (95 "Conventions"). -/
def withEnv (e : Env) : State := { State.reset with env := e, trace := [] }

/-- The same with another poll bound. -/
def withBound (n : Nat) (e : Env) : State := { withEnv e with params := { Params.p0 with readyPollLimit := n } }

/-- A state in which SHUTDOWN was performed. -/
def afterShutdown : State := { withEnv .unconstrained with engine := { Engine.reset with released := true } }

/-- A state in differential mode. -/
def differential : State :=
  { withEnv .unconstrained with engine := { Engine.reset with scanMode := .differential } }

/-- An environment that answers 0xFF to the next `n` transfers. -/
def allOnes (n : Nat) : Env := .scripted (List.replicate n 0xFF) []

/-- The mock of pin 22 with these registers, frames (not repeating) and ready script of pin 17. -/
def mock (regs : Memory) (frames : List Frame) (ready : ReadyScript) : Mock :=
  { regs := regs, frames := [(22, frames)], frameRepeat := [(22, false)], ready := [(17, ready)]
    window := none, reads := [], bus := [] }

/-- A state whose environment is that mock. -/
def withMock (regs : Memory) (frames : List Frame) (ready : ReadyScript) : State :=
  withEnv (.mock (mock regs frames ready))

/-- `cs:reg` 22:06, the input-multiplexer register under P0. -/
def muxAddr : Nat := 22 * 256 + 6

/-- What an operation returns and its trace, if it returns. -/
def ran (o : Host.Outcome State Fault Refusal) : Option (Result × List Event) :=
  match o with
  | .next t => some (t.result, t.trace)
  | .fault _ => none
  | .refused _ => none

/-- The state an operation leaves, if it returns. -/
def after (o : Host.Outcome State Fault Refusal) : Option State :=
  match o with
  | .next t => some t
  | .fault _ => none
  | .refused _ => none

/-- The reason an operation is refused, if it is. -/
def refusal (o : Host.Outcome State Fault Refusal) : Option Refusal :=
  match o with
  | .next _ => none
  | .fault _ => none
  | .refused r => some r

/-- The mock's registers in a state. -/
def mockRegs (s : State) : Option Memory :=
  match s.env with
  | .mock m => some m.regs
  | .unconstrained => none
  | .scripted _ _ => none

/-- The frame of the source's end-to-end example (95 A7). -/
def frameA7 : Frame := ⟨0x00, 0x12, 0x34, 0x56, 0x78, 0xAF⟩

/-- The same frame with the check byte off by one (95 V-RD-3). -/
def frameBad : Frame := ⟨0x00, 0x12, 0x34, 0x56, 0x78, 0xAE⟩

/-! ### Well-formedness: an ill-formed term for each check (R6, R88, R90, R93, R95) -/

theorem test_wellFormed_refuses :
    (Instr.setmode 2).wellFormed .p0 = false ∧
    (Instr.rdchans (List.replicate 256 0) 22 17).wellFormed .p0 = false ∧
    (Instr.reserved 0x0F).wellFormed .p0 = false ∧
    (Instr.wireCmd 0x0A 22).wellFormed .p0 = false ∧
    (Instr.wireCmd 0x08 22).wellFormed .p0 = false ∧
    (Instr.start 22).wellFormed { Params.p0 with cmdStart := 0x0A } = false ∧
    (Instr.wireWreg 0x26 0x11 22).wellFormed .p0 = false ∧
    (Instr.wireRreg 0x26 22).wellFormed .p0 = false := by decide

theorem test_wellFormed_accepts_boundaries :
    (Instr.setmode 1).wellFormed .p0 = true ∧
    (Instr.rdchans (List.replicate 255 0) 22 17).wellFormed .p0 = true ∧
    (Instr.reserved 0x00).wellFormed .p0 = true ∧ (Instr.reserved 0x10).wellFormed .p0 = true ∧
    (Instr.wireWreg 0x1F 0x11 22).wellFormed .p0 = true := by decide

theorem test_p0_wf : Params.p0.WF ∧ Params.p0.WireWF := by decide

/-! ### Decoding: the words of 95_test_vectors.md and of the tables R82 to R85 and R89 -/

theorem test_decode_register_access :
    decode [0x01, 0x0A, 0x16] = .request (.wcmd 0x0A 22) [] ∧
    decode [0x02, 0x06, 0x7A, 0x16] = .request (.wreg 0x06 0x7A 22) [] ∧
    decode [0x03, 0x06, 0x16] = .request (.rreg 0x06 22) [] := by decide

theorem test_decode_checksum_and_wait :
    decode [0x04, 0xDE, 0xAD, 0xBE, 0xEF, 0xD3] = .request (.chksum 0xDEADBEEF 0xD3) [] ∧
    decode [0x05, 0x11] = .request (.waitrdy 17) [] := by decide

theorem test_decode_configurator :
    decode [0x06, 0x16] = .request (.chipid 22) [] ∧
    decode [0x07, 0x03, 0x0F, 0x16] = .request (.config 0x03 0x0F 22) [] ∧
    decode [0x08, 0x0F, 0x16] = .request (.init 0x0F 22) [] ∧
    decode [0x09, 0x01] = .request (.setmode 1) [] ∧
    decode [0x0E, 0x12] = .request (.resetdev 18) [] ∧
    decode [0x0F, 0x09, 0x00] = .request .shutdown [0x09, 0x00] := by decide

theorem test_decode_scanner :
    decode [0x0A, 0x07, 0x16] = .request (.selch 7 22) [] ∧
    decode [0x0B, 0x16] = .request (.framerd 22) [] ∧
    decode [0x0C, 0x0B, 0x16, 0x11] = .request (.rdchan 11 22 17) [] := by decide

theorem test_decode_scan :
    decode [0x0D, 0x16, 0x11, 0x05, 0x03, 0x01, 0x04, 0x01, 0x05] =
      .request (.rdchans [3, 1, 4, 1, 5] 22 17) [] ∧
    decode [0x0D, 0x16, 0x11, 0x00] = .request (.rdchans [] 22 17) [] ∧
    decode [0x0D, 0x16, 0x11, 0x02, 0x03] = .incomplete := by decide

theorem test_decode_reserved :
    decode [0x00] = .request (.reserved 0) [] ∧ decode [0xFF] = .request (.reserved 0xFF) [] ∧
    decode [0x10, 0x00, 0x00] = .request (.reserved 0x10) [0x00, 0x00] := by decide

theorem test_decode_wire :
    decodeWire .p0 22 [0x11] = some (.wireCmd 0x11 22) ∧
    decodeWire .p0 22 [0x0A] = some (.stop 22) ∧ decodeWire .p0 22 [0x08] = some (.start 22) ∧
    decodeWire .p0 22 [0x4F, 0x00, 0x24] = some (.wireWreg 0x0F 0x24 22) ∧
    decodeWire .p0 22 [0x2F, 0x00, 0x00] = some (.wireRreg 0x0F 22) ∧
    decodeWire .p0 22 [0, 0, 0, 0, 0, 0] = some (.wireFrame 22) := by decide

theorem test_decode_wire_refuses :
    decodeWire .p0 22 [] = none ∧ decodeWire .p0 22 [0x26, 0x00] = none ∧
    decodeWire .p0 22 [0x26, 0x00, 0x01] = none ∧ decodeWire .p0 22 [0x46, 0x01, 0x7A] = none ∧
    decodeWire .p0 22 [0, 0, 0, 0, 0, 1] = none := by decide

theorem test_asm :
    (Instr.rdchans [3, 1] 22 17).asm = "RDCHANS [3,1], 22, 17" ∧ Instr.shutdown.asm = "SHUTDOWN" := by
  decide

theorem test_decodeTableWord_host_ids :
    [0x00, 0x01, 0x02, 0x03, 0x04, 0x05, 0x06, 0x07, 0x08].map
        (fun w => (decodeTableWord 8 w).map Instr.mnemonic) =
      ["(reserved)", "WCMD", "WREG", "RREG", "CHKSUM", "WAITRDY", "CHIPID", "CONFIG", "INIT"].map some ∧
    [0x09, 0x0A, 0x0B, 0x0C, 0x0D, 0x0E, 0x0F, 0x10].map
        (fun w => (decodeTableWord 8 w).map Instr.mnemonic) =
      ["SETMODE", "SELCH", "FRAMERD", "RDCHAN", "RDCHANS", "RESETDEV", "SHUTDOWN", "(reserved)"].map
        some := by decide

theorem test_decodeTableWord_wire_frames :
    decodeTableWord 24 0x460000 = some (.wireWreg 0x06 0x00 0) ∧
    decodeTableWord 24 0x260000 = some (.wireRreg 0x06 0) ∧
    decodeTableWord 48 0 = some (.wireFrame 0) := by decide

/-! ### Steps -/

theorem test_step_runs_presented_word :
    ran (step (State.reset.withFetchWord 8 0x0F)) = some (.none, State.reset.trace) ∧
    refusal (step (State.reset.withFetchWord 8 0x10)) = some (.reservedOp 0x10) ∧
    (ran (step (State.reset.withFetchWord 8 0x0E))).map (fun x => x.2.length) = some 11 ∧
    (ran (step (State.reset.withFetchWord 48 0))).map (fun x => x.2.length) = some 13 := by decide

theorem test_step_takes_one_request :
    (after (step { withEnv .unconstrained with hostIn := [0x09, 0x01, 0x0F] })).map
        (fun t => (t.hostIn, t.engine.scanMode, t.engine.released)) =
      some ([0x0F], .differential, false) := by decide

/-- V-RST-1. -/
theorem test_engine_reset :
    State.reset.trace =
      [.cfg 18 .output, .cfg 22 .output, .cfg 17 .input, .wr 22 .high, .wr 18 .high] ∧
    (after (step { afterShutdown with resetIn := true })).map (fun t => (t.engine, t.trace)) =
      some (Engine.reset,
        [.cfg 18 .output, .cfg 22 .output, .cfg 17 .input, .wr 22 .high, .wr 18 .high]) := by decide

/-! ### Register access (B1) -/

/-- V-REG-8: any command byte and any pin. -/
theorem test_wcmd : ran (exec (.wcmd 0xFF 5) (withEnv (allOnes 1))) =
    some (.none, [.wr 5 .low, .xfer 0xFF 0xFF, .wr 5 .high]) := by decide

/-- V-REG-7: the whole register byte is OR-ed in. -/
theorem test_wreg_ors_whole_byte : ran (exec (.wreg 0x26 0x11 22) (withEnv (allOnes 3))) =
    some (.none, [.wr 22 .low, .xfer 0x66 0xFF, .xfer 0x00 0xFF, .xfer 0x11 0xFF, .wr 22 .high]) := by
  decide

/-- V-REG-2: the mock stores the byte. -/
theorem test_wreg_stores : (after (exec (.wreg 0x06 0x7A 22) (withMock [] [] .never))).bind mockRegs =
    some [(muxAddr, 0x7A)] := by decide

/-- V-REG-3. -/
theorem test_rreg : ran (exec (.rreg 0x06 22) (withMock [(muxAddr, 0x7A)] [] .never)) =
    some (.byte 0x7A,
      [.wr 22 .low, .xfer 0x26 0x00, .xfer 0x00 0x00, .xfer 0x00 0x7A, .wr 22 .high]) := by decide

/-- V-REG-5: no device. -/
theorem test_rreg_no_device : ran (exec (.rreg 0x00 22) (withEnv (allOnes 3))) =
    some (.byte 0xFF,
      [.wr 22 .low, .xfer 0x20 0xFF, .xfer 0x00 0xFF, .xfer 0x00 0xFF, .wr 22 .high]) := by decide

/-- R95: STOP and START send the two command bytes. -/
theorem test_stop_start :
    ran (exec (.stop 22) (withEnv (allOnes 1))) =
      some (.none, [.wr 22 .low, .xfer 0x0A 0xFF, .wr 22 .high]) ∧
    ran (exec (.start 22) (withEnv (allOnes 1))) =
      some (.none, [.wr 22 .low, .xfer 0x08 0xFF, .wr 22 .high]) := by decide

/-- R82 to R85: the other wire rows' windows. -/
theorem test_wire_rows :
    ran (exec (.wireCmd 0x11 22) (withEnv (allOnes 1))) =
      some (.none, [.wr 22 .low, .xfer 0x11 0xFF, .wr 22 .high]) ∧
    ran (exec (.wireWreg 0x06 0x7A 22) (withEnv (allOnes 3))) =
      some (.none, [.wr 22 .low, .xfer 0x46 0xFF, .xfer 0x00 0xFF, .xfer 0x7A 0xFF, .wr 22 .high]) ∧
    (ran (exec (.wireRreg 0x06 22) (withEnv (.scripted [0, 0, 0x7A] [])))).map Prod.fst =
      some (.byte 0x7A) ∧
    (ran (exec (.wireFrame 22) (withEnv (.scripted frameA7.bytes [])))).map Prod.fst =
      some (.frame 0x00 0x12345678 0xAF) := by decide

/-! ### Checksum (B2) -/

/-- V-CHK-1 to V-CHK-6. -/
theorem test_checksum_basic :
    checksum 0x12345678 0xAF = 0x00 ∧ checksum 0x12345678 0xAE = 0x01 ∧ checksum 0x12345678 0x00 = 0xAF ∧
    checksum 0x12345678 0x50 = 0xFF ∧ checksum 0 0x9B = 0 ∧ checksum 0 0 = 0x9B := by decide

/-- V-CHK-7 to V-CHK-14: wraps, corners, order of bytes. -/
theorem test_checksum_corners :
    checksum 0xFFFFFFFF 0x97 = 0 ∧ checksum 0xFFFFFFFF 0xFF = 0x68 ∧ checksum 0x00000065 0x00 = 0 ∧
    checksum 0x00000165 0x01 = 0 ∧ checksum 0x80000000 0x1B = 0 ∧ checksum 0x0000FF65 0xFF = 0 ∧
    checksum 0x34127856 0xAF = 0 ∧ checksum 0xDEADBEEF 0xD3 = 0 := by decide

/-- V-CHK-4 through the operation. -/
theorem test_chksum : ran (exec (.chksum 0x12345678 0x50) (withEnv .unconstrained)) =
    some (.byte 0xFF, []) := by decide

/-! ### Data-ready wait (B3) -/

/-- V-RDY-1, V-RDY-2. -/
theorem test_waitrdy_low :
    ran (exec (.waitrdy 17) (withEnv (.scripted [] [.low]))) = some (.none, [.rd 17 .low]) ∧
    (after (exec (.waitrdy 17) (withBound 3 (.scripted [] [.high, .high, .low])))).map
        (fun t => (t.trace, t.engine.poll, t.engine.diag)) =
      some ([.rd 17 .high, .rd 17 .high, .rd 17 .low], 2, []) := by decide

/-- V-RDY-3: exactly three reads, the fourth answer is not read. -/
theorem test_waitrdy_timeout :
    (after (exec (.waitrdy 17) (withBound 3 (.scripted [] [.high, .high, .high, .low])))).map
        (fun t => (t.trace, t.engine.poll, t.engine.diag, t.env)) =
      some ([.rd 17 .high, .rd 17 .high, .rd 17 .high, .dg (.readyTimeout 17)], 3, [.readyTimeout 17],
        .scripted [] [.low]) := by decide

/-! ### Configurator (B4) -/

/-- V-CFG-1, V-CFG-2: the identity logged and stored. -/
theorem test_chipid :
    ran (exec (.chipid 22) (withMock [(22 * 256, 0x01)] [] .never)) =
      some (.byte 1, [.wr 22 .low, .xfer 0x20 0x00, .xfer 0x00 0x00, .xfer 0x00 0x01, .wr 22 .high,
        .dg (.idOk 22 1)]) ∧
    (after (exec (.chipid 22) (withMock [(22 * 256, 0x23)] [] .never))).map
        (fun t => (t.engine.chipId, t.engine.diag)) = some ([(22, 0x23)], [.idMismatch 22 0x23]) := by
  decide

/-- V-CFG-2 with `ID_SHIFT = 5`. -/
theorem test_chipid_shift :
    (ran (exec (.chipid 22) { withMock [(22 * 256, 0x23)] [] .never with
      params := { Params.p0 with idShift := 5 } })).map Prod.fst = some (.byte 1) := by decide

/-- V-CFG-3: 44 events, no diagnostic, the four registers. -/
theorem test_config :
    (after (exec (.config 0x03 0x0F 22) (withMock [] [] .never))).map
        (fun t => (t.trace.length, t.engine.diag, mockRegs t)) =
      some (44, [],
        some [(22 * 256 + 3, 0x03), (22 * 256 + 4, 0x0F), (22 * 256 + 5, 0x80), (22 * 256 + 15, 0x24)]) := by
  decide

/-- V-CFG-4: every step runs though every read-back differs. -/
theorem test_config_mismatch :
    (after (exec (.config 0x03 0x0F 22) (withEnv (allOnes 24)))).map
        (fun t => (t.trace.length, t.engine.diag)) =
      some (48, [.cfgMismatch 22 0x05 0x80 0xFF, .cfgMismatch 22 0x0F 0x24 0xFF,
        .cfgMismatch 22 0x03 0x03 0xFF, .cfgMismatch 22 0x04 0x0F 0xFF]) := by decide

/-- V-CFG-6. -/
theorem test_init :
    (after (exec (.init 0x0F 22) (withMock [(22 * 256, 0x01)] [] .never))).map
        (fun t => ((t.trace.length, t.result, t.engine.diag), (t.engine.rate, t.engine.chipId))) =
      some ((53, .byte 0, [.idOk 22 1]), ([(22, 0x0F)], [(22, 0x01)])) := by decide

/-- V-CFG-7: no device, and 0 all the same. -/
theorem test_init_no_device :
    (after (exec (.init 0x0F 22) (withEnv (allOnes 28)))).map
        (fun t => ((t.trace.length, t.result, t.engine.diag.length), (t.engine.rate, t.engine.chipId))) =
      some ((57, .byte 0, 5), ([(22, 0x0F)], [(22, 0xFF)])) := by decide

/-- V-CFG-8, V-CFG-9. -/
theorem test_setmode :
    (after (exec (.setmode 1) (withEnv .unconstrained))).map (fun t => (t.engine.scanMode, t.trace)) =
      some (.differential, []) ∧
    refusal (exec (.setmode 2) (withEnv .unconstrained)) = some (.badOperand 2) := by decide

/-- P6, first line. -/
theorem test_resetdev : ran (exec (.resetdev 18) (withEnv .unconstrained)) =
    some (.none, [.wr 18 .high, .dly 300, .wr 18 .low, .dly 300, .wr 18 .high, .dly 300]) := by decide

/-- V-REF-1 to V-REF-3, V-REF-6. -/
theorem test_refusals :
    refusal (exec (.reserved 0x00) (withEnv .unconstrained)) = some (.reservedOp 0x00) ∧
    refusal (exec (.reserved 0xFF) (withEnv .unconstrained)) = some (.reservedOp 0xFF) ∧
    (after (exec .shutdown (withEnv .unconstrained))).map (fun t => refusal (exec (.setmode 0) t)) =
      some (some .released) := by decide

/-! ### Scanner (B5) -/

/-- V-SEL-1, and V-SEL-3 and V-SEL-5: no event for a channel above 10. -/
theorem test_selch :
    ran (exec (.selch 7 22) (withMock [] [] .never)) =
      some (.none,
        [.wr 22 .low, .xfer 0x46 0x00, .xfer 0x00 0x00, .xfer 0x7A 0x00, .wr 22 .high,
          .wr 22 .low, .xfer 0x26 0x00, .xfer 0x00 0x00, .xfer 0x00 0x7A, .wr 22 .high]) ∧
    ran (exec (.selch 11 22) (withEnv .unconstrained)) = some (.none, []) ∧
    ran (exec (.selch 255 22) (withEnv .unconstrained)) = some (.none, []) := by decide

/-- V-SEL-6: the mismatch is logged, nothing is written again. -/
theorem test_selch_mismatch :
    (after (exec (.selch 7 22) (withEnv (.scripted [0, 0, 0, 0, 0, 0] [])))).map
        (fun t => (t.trace.length, t.engine.diag)) = some (11, [.cfgMismatch 22 0x06 0x7A 0x00]) := by
  decide

/-- R40: a register read answers the register at transfer 2, and the rule has no answer to transfer 3. -/
theorem test_readAnswer :
    (mock [(muxAddr, 0x7A)] [] .never).readAnswer 22 0x06 2 = some 0x7A ∧
    (mock [(muxAddr, 0x7A)] [] .never).readAnswer 22 0x06 3 = none := by decide

/-- V-FRM-2: no sign is smeared and nothing is tested. -/
theorem test_framerd :
    ran (exec (.framerd 22) (withMock [] [⟨0xFF, 0x80, 0x00, 0x00, 0x01, 0x55⟩] .never)) =
      some (.frame 0xFF 0x80000001 0x55,
        [.wr 22 .low, .xfer 0x00 0xFF, .xfer 0x00 0x80, .xfer 0x00 0x00, .xfer 0x00 0x00,
          .xfer 0x00 0x01, .xfer 0x00 0x55, .wr 22 .high]) := by decide

/-- V-RD-1. -/
theorem test_rdchan :
    (after (exec (.rdchan 7 22 17) (withMock [] [frameA7] (.after 0)))).map
        (fun t => (t.result, t.trace.length, t.engine.attempt, t.engine.diag, t.engine.phase)) =
      some (.word 0x12345678, 25, 1, [], .idle) := by decide

/-- The transactions of V-RD-1, decoded back with their results (R93). -/
theorem test_decodeTrace :
    (after (exec (.rdchan 7 22 17) (withMock [] [frameA7] (.after 0)))).map
        (fun t => decodeTrace .p0 t.trace) =
      some [some (.stop 22, .none), some (.wireWreg 0x06 0x7A 22, .none),
        some (.wireRreg 0x06 22, .byte 0x7A), some (.start 22, .none),
        some (.wireFrame 22, .frame 0x00 0x12345678 0xAF)] := by decide

/-- V-RD-2. -/
theorem test_rdchan_retries :
    (after (exec (.rdchan 10 22 17) (withMock []
        [⟨0, 0xCA, 0xFE, 0xF0, 0x0D, 0x61⟩, ⟨0, 0xCA, 0xFE, 0xF0, 0x0D, 0x61⟩,
          ⟨0, 0xCA, 0xFE, 0xF0, 0x0D, 0x60⟩] (.after 1)))).map
        (fun t => (t.result, t.trace.length, t.engine.attempt, t.engine.diag)) =
      some (.word 0xCAFEF00D, 48, 3,
        [.chkFail 22 10 1 0xCAFEF00D 0x61, .chkFail 22 10 2 0xCAFEF00D 0x61]) := by decide

/-! ### Orchestrator (B6) -/

/-- V-ORC-3. -/
theorem test_rdchans :
    (after (exec (.rdchans [0, 200, 10] 22 17) (withMock []
        [⟨0, 0xAA, 0xAA, 0xAA, 0xAA, 0x43⟩, ⟨0, 0xBB, 0xBB, 0xBB, 0xBB, 0x87⟩] (.after 0)))).map
        (fun t => (t.result, t.trace.length, t.engine.idx)) =
      some (.words [0xAAAAAAAA, 0x00000000, 0xBBBBBBBB], 53, 3) := by decide

/-- V-ORC-1 in differential mode, and V-ORC-4. -/
theorem test_rdchans_differential :
    ran (exec (.rdchans [] 22 17) differential) = some (.words [], []) ∧
    refusal (exec (.rdchans [4] 22 17) differential) = some .unsupportedMode := by decide

/-! ### The hypotheses of every obligation that has some are met together -/

theorem test_witness_DecodeOfEncodeHost :
    (Instr.rdchans (List.replicate 255 0) 22 17).layer = .host ∧
    (Instr.rdchans (List.replicate 255 0) 22 17).wellFormed .p0 = true ∧
    (Instr.setmode 1).layer = .host ∧ (Instr.setmode 1).wellFormed .p0 = true := by decide

theorem test_witness_EncodeOfDecodeHost :
    decode [0x0D, 0x16, 0x11, 0x01, 0x04, 0x0F] = .request (.rdchans [4] 22 17) [0x0F] := by decide

theorem test_witness_DecodeOfEncodeWire :
    Params.p0.WireWF ∧ (Instr.wireWreg 0x1F 0xFF 22).wirePin = some 22 ∧
    (Instr.wireWreg 0x1F 0xFF 22).wellFormed .p0 = true := by decide

theorem test_witness_TruncatedRequestIsIncomplete :
    (Instr.chksum 0x12345678 0xAF).layer = .host ∧
    (Instr.chksum 0x12345678 0xAF).wellFormed .p0 = true ∧
    5 < (encode .p0 (.chksum 0x12345678 0xAF)).length ∧ (0 : Nat) < (encode .p0 .shutdown).length := by
  decide

/-- A state with these request bytes. -/
def asking (bytes : List Byte) : State := { withEnv .unconstrained with hostIn := bytes }

/-- A state with this window presented. -/
def showing (sent : List Byte) : State := { withEnv .unconstrained with wireIn := some (22, sent) }

theorem test_witness_StepRunsPresentedRequest :
    (asking [0x0B, 0x16, 0x0F]).resetIn = false ∧ (asking [0x0B, 0x16, 0x0F]).wireIn = none ∧
    decode (asking [0x0B, 0x16, 0x0F]).hostIn = .request (.framerd 22) [0x0F] := by decide

theorem test_witness_StepRunsPresentedWindow :
    (showing [0x08]).resetIn = false ∧ (showing [0x08]).wireIn = some (22, [0x08]) ∧
    decodeWire (showing [0x08]).params 22 [0x08] = some (.start 22) ∧
    decodeWire (showing [0x08, 0x00]).params 22 [0x08, 0x00] = none := by decide

theorem test_witness_StepWaitsForWholeRequest :
    (asking [0x0D, 0x16]).resetIn = false ∧ (asking [0x0D, 0x16]).wireIn = none ∧
    decode (asking [0x0D, 0x16]).hostIn = .incomplete := by decide

theorem test_witness_StepTakesEngineReset :
    { afterShutdown with resetIn := true }.resetIn = true ∧
    [Event.cfg 18 .output, .cfg 22 .output, .cfg 17 .input, .wr 22 .high, .wr 18 .high] =
      afterShutdown.params.pinmap.flatMap (fun d =>
        [.cfg d.rst .output, .cfg d.cs .output, .cfg d.drdy .input, .wr d.cs .high, .wr d.rst .high]) := by
  decide

theorem test_witness_ResetLeavesTableSValues :
    [Event.cfg 18 .output, .cfg 22 .output, .cfg 17 .input, .wr 22 .high, .wr 18 .high] =
      Params.p0.pinmap.flatMap (fun d =>
        [.cfg d.rst .output, .cfg d.cs .output, .cfg d.drdy .input, .wr d.cs .high, .wr d.rst .high]) := by
  decide

theorem test_witness_BringUpSetsIdleLevels :
    { cs := 22, drdy := 17, rst := 18 } ∈ Params.p0.pinmap ∧
    (∀ e ∈ Params.p0.pinmap, e.drdy ≠ 22) ∧ (∀ e ∈ Params.p0.pinmap, e.drdy ≠ 18) ∧
    (∀ e ∈ Params.p0.pinmap, e.cs ≠ 17 ∧ e.rst ≠ 17) := by decide

theorem test_witness_WcmdPerformsCommandWindow :
    (withEnv (allOnes 1)).engine.released = false ∧ afterShutdown.engine.released = true := by decide

theorem test_witness_WregPerformsWriteWindow :
    (withEnv (allOnes 3)).engine.released = false ∧ afterShutdown.engine.released = true := by decide

theorem test_witness_RregReturnsThirdAnswer :
    (withEnv (.scripted [0x11, 0x22, 0x33] [])).engine.released = false ∧
    (withMock [(muxAddr, 0x7A)] [] .never).params = .p0 ∧
    (mock [(muxAddr, 0x7A)] [] .never).regs.read (regAddr 22 0x06) = some 0x7A := by decide

theorem test_witness_WireCommandRowsPerformTheirWindow :
    (withEnv (allOnes 1)).engine.released = false := by decide

theorem test_witness_WireFrameRowsPerformTheirWindow :
    (withEnv (allOnes 6)).engine.released = false ∧ (withEnv (allOnes 6)).params.WireWF ∧
    (Instr.wireRreg 0x1F 22).wirePin = some 22 ∧
    (Instr.wireRreg 0x1F 22).wellFormed (withEnv (allOnes 6)).params = true := by decide

theorem test_witness_MockRegisterRoundTrip :
    (withMock [] [] .never).engine.released = false ∧ (withMock [] [] .never).params.WireWF ∧
    (withMock [] [] .never).env = .mock (mock [] [] .never) ∧
    (0x1F : Byte) &&& (withMock [] [] .never).params.classMask = 0 := by decide

theorem test_witness_MockRegistersOutsideStoresUnchanged :
    (withMock [(muxAddr, 0x3A)] [] .never).env = .mock (mock [(muxAddr, 0x3A)] [] .never) ∧
    (after (exec (.wreg 0x05 0x80 22) (withMock [(muxAddr, 0x3A)] [] .never))).isSome = true ∧
    muxAddr ∉ storeAddrs .p0 (.wreg 0x05 0x80 22) := by decide

theorem test_witness_MockWregStoresDataByte :
    (withMock [] [] .never).engine.released = false ∧
    (withMock [] [] .never).env = .mock (mock [] [] .never) ∧
    muxAddr ∈ windowStore .p0 22 (Params.p0.opWreg ||| 0x06) ∧
    muxAddr ∉ windowStore .p0 22 (Params.p0.opWreg ||| 0x26) := by decide

theorem test_witness_ChksumReturnsAdditiveCheck :
    (withEnv .unconstrained).engine.released = false ∧ afterShutdown.engine.released = true ∧
    byteSumNat 0x00000065 = 0x65 := by decide

theorem test_witness_WaitrdyReturnsWhenLineGoesLow :
    (withBound 3 (.scripted [] [.high, .high, .low])).engine.released = false ∧
    2 < (withBound 3 (.scripted [] [.high, .high, .low])).params.readyPollLimit ∧
    (withBound 3 (.scripted [] [.high, .high, .low])).env =
      .scripted [] (List.replicate 2 .high ++ .low :: []) := by decide

theorem test_witness_WaitrdyTimesOutAtBound :
    (withBound 1 (.scripted [] [.high])).engine.released = false ∧
    1 ≤ (withBound 1 (.scripted [] [.high])).params.readyPollLimit ∧
    (withBound 1 (.scripted [] [.high])).env =
      .scripted [] (List.replicate (withBound 1 (.scripted [] [.high])).params.readyPollLimit .high ++ []) := by
  decide

theorem test_witness_WaitrdyAlwaysReturns : (withBound 0 .unconstrained).engine.released = false := by
  decide

theorem test_witness_ChipidStoresAndLogsIdentity : (withEnv (allOnes 3)).engine.released = false := by
  decide

theorem test_witness_ConfigRunsFourStepsInOrder : (withEnv (allOnes 24)).engine.released = false := by
  decide

theorem test_witness_InitAlwaysReturnsZero : (withEnv (allOnes 28)).engine.released = false := by decide

theorem test_witness_SetmodeWritesFlagOnly :
    (withEnv .unconstrained).engine.released = false ∧ 2 ≤ (2 : Byte).toNat := by decide

theorem test_witness_ResetdevPulsesResetLine : (withEnv .unconstrained).engine.released = false := by
  decide

theorem test_witness_ShutdownRefusesEverythingAfter :
    (withEnv .unconstrained).engine.released = false ∧ afterShutdown.engine.released = true := by decide

theorem test_witness_SelchWritesMuxByte :
    (withEnv (allOnes 6)).engine.released = false ∧ (10 : Byte).toNat ≤ 10 := by decide

theorem test_witness_SelchIgnoresInvalidChannel :
    (withEnv .unconstrained).engine.released = false ∧ 10 < (11 : Byte).toNat := by decide

theorem test_witness_MuxByteAndSampleAssembly :
    (withEnv (allOnes 6)).engine.released = false ∧ (10 : Byte).toNat ≤ 10 := by decide

theorem test_witness_FramerdReadsSixBytes : (withEnv (allOnes 6)).engine.released = false := by decide

theorem test_witness_SampleIsBigEndian :
    (withEnv (.scripted [0xFF, 0x80, 0x00, 0x00, 0x01, 0x55] [])).engine.released = false := by decide

theorem test_witness_RdchanInvalidChannelReturnsZero :
    (withEnv (allOnes 1)).engine.released = false ∧
    (withEnv (allOnes 1)).engine.scanMode = .singleEnded ∧ 10 < (11 : Byte).toNat := by decide

theorem test_witness_RdchanReadsUntilValidFrame :
    (withEnv .unconstrained).engine.released = false ∧
    (withEnv .unconstrained).engine.scanMode = .singleEnded ∧ (10 : Byte).toNat ≤ 10 := by decide

theorem test_witness_RdchanReturnsFirstGoodFrame :
    (∀ f ∈ [frameBad], ¬ f.Good) ∧ frameA7.Good ∧ [frameBad].length < 50 ∧
    (withEnv (.scripted
      (List.replicate 8 0 ++ [frameBad].flatMap Frame.bytes ++ frameA7.bytes ++ [])
      (List.replicate 2 .low ++ []))).engine.scanMode = .singleEnded ∧
    (after (exec (.rdchan 2 22 17) (withEnv (.scripted
      (List.replicate 8 0 ++ [frameBad].flatMap Frame.bytes ++ frameA7.bytes ++ [])
      (List.replicate 2 .low ++ []))))).map (fun t => (t.result, t.engine.attempt)) =
        some (.word 0x12345678, 2) := by decide

theorem test_witness_RdchanFailsAfterFiftyReads :
    (∀ f ∈ List.replicate 50 frameBad, ¬ f.Good) ∧ (List.replicate 50 frameBad).length = 50 ∧
    (withEnv (.scripted
      (List.replicate 8 0 ++ (List.replicate 50 frameBad).flatMap Frame.bytes)
      (List.replicate 50 .low))).engine.released = false := by decide

theorem test_witness_DifferentialReadsRefused :
    differential.engine.released = false ∧ differential.engine.scanMode = .differential := by decide

theorem test_witness_PhasesFollowTransitionTable :
    (withMock [] [frameA7] (.after 0)).engine.phase = .idle ∧
    (after (exec (.rdchan 7 22 17) (withMock [] [frameA7] (.after 0)))).map (·.phases) =
      some [.selecting, .converting, .waitingReady, .reading, .valid, .idle] := by decide

theorem test_witness_RdchansReturnsOneValuePerChannel :
    (withEnv .unconstrained).engine.released = false ∧
    (withEnv .unconstrained).engine.scanMode = .singleEnded ∧ differential.engine.released = false ∧
    [(0 : Byte), 200, 10][1]? = some 200 ∧ 10 < (200 : Byte).toNat := by decide

theorem test_witness_RdchansIsRepeatedRdchan :
    (withEnv .unconstrained).engine.released = false ∧
    (withEnv .unconstrained).engine.scanMode = .singleEnded := by decide

theorem test_witness_ScandevsVisitsDevicesInOrder :
    (withEnv .unconstrained).engine.released = false ∧
    (withEnv .unconstrained).engine.scanMode = .singleEnded := by decide

theorem test_witness_RefusedExactlyWhereListed :
    refusalOf (.setmode 2) (withEnv .unconstrained) = some (.badOperand 2) ∧
    refusalOf (.rdchans [4] 22 17) differential = some .unsupportedMode ∧
    refusalOf (.setmode 2) afterShutdown = some .released ∧
    refusalOf (.rdchans [] 22 17) differential = none ∧
    refusalOf (.setmode 1) (withEnv .unconstrained) = none := by decide

theorem test_witness_ReservedIdsAreRefused :
    ((0x10 : Byte).toNat = 0 ∨ 16 ≤ (0x10 : Byte).toNat) ∧ ((0 : Byte).toNat = 0 ∨ 16 ≤ (0 : Byte).toNat) ∧
    (asking [0x10, 0x00]).engine.released = false ∧ (asking [0x10, 0x00]).resetIn = false ∧
    (asking [0x10, 0x00]).wireIn = none ∧ (asking [0x10, 0x00]).hostIn = 0x10 :: [0x00] := by decide

theorem test_witness_OperationsAreTheirTraces :
    (after (exec (.config 0x03 0x0F 22) (withEnv (allOnes 24)))).isSome = true := by decide

theorem test_witness_OperationsWriteOnlyTheirLine :
    (after (exec (.resetdev 18) (withEnv .unconstrained))).isSome = true ∧
    (22 : Pin) ∉ writtenPins (.resetdev 18) := by decide

theorem test_witness_RecordFieldsNeverInfluence :
    (after (exec (.chipid 22) (withEnv (allOnes 3)))).isSome = true ∧
    refusal (exec (.setmode 2) (withEnv .unconstrained)) = some (.badOperand 2) := by decide

theorem test_witness_ResultHasTableLength :
    (after (exec (.framerd 22) (withEnv (allOnes 6)))).isSome = true := by decide

theorem test_witness_OwnSequencesEmitListedBytes :
    ownSequence (.init 0x0F 22) = true ∧
    (after (exec (.init 0x0F 22) (withEnv (allOnes 28)))).isSome = true := by decide

theorem test_witness_EventCountsAreAsListed :
    eventCount .p0 (.selch 10 22) = some (10, 11) ∧ eventCount .p0 (.selch 11 22) = some (0, 0) ∧
    (after (exec (.selch 10 22) (withEnv (allOnes 6)))).isSome = true := by decide

/-- The states the invariants speak of, with a step that returns. -/
theorem test_witness_StepKeepsQuiescent :
    (asking [0x0F]).Quiescent ∧ (after (step (asking [0x0F]))).isSome = true := by decide

theorem test_witness_StepKeepsTraceFramed :
    Framed (asking [0x0E, 0x12]).trace ∧ (after (step (asking [0x0E, 0x12]))).isSome = true := by decide

theorem test_witness_StepKeepsTablesCanonical :
    (asking [0x0E, 0x12]).Canonical ∧ (after (step (asking [0x0E, 0x12]))).isSome = true :=
  ⟨⟨by decide, by decide, by decide, by decide, trivial⟩, by decide⟩

theorem test_witness_StepKeepsCountersInRange :
    (asking [0x0D, 22, 17, 0]).CountersInRange ∧
    (after (step (asking [0x0D, 22, 17, 0]))).isSome = true := by decide

theorem test_witness_StepKeepsLinesHigh :
    (asking [0x0E, 0x12]).LinesHigh ∧
    (after (step (asking [0x0E, 0x12]))).map (·.pins.out) = some [(18, .high), (22, .high)] := by
  refine ⟨fun q => ?_, by decide⟩
  have h : (asking [0x0E, 0x12]).pins.out = [(18, .high), (22, .high)] := by decide
  rw [h]
  simp only [Table.get]
  split
  · simp
  · split <;> simp

end Sys2Proof.Tests
end

/-! PROOFS of the family 00_scope.md: the step that runs a presented request (R8), and operations as their
traces (R12, R16, R30, R60, R191). -/

namespace Sys2Proof.Machine

/-! ### The step that runs a presented request -/

/-- The fetch with neither reset nor a wire window presented, and a whole request in the host's bytes. -/
theorem State.fetch_of_request {s : State} {i : Instr} {rest : List Byte} (hreset : s.resetIn = false)
    (hwire : s.wireIn = none) (hreq : decode s.hostIn = .request i rest) :
    s.fetch = .run i { s with hostIn := rest } := by
  simp [State.fetch, hreset, hwire, hreq]

/-- Settles O6: the fetch is that of the request, and the step runs what is fetched. -/
theorem stepRunsPresentedRequest : Obligations.StepRunsPresentedRequest := by
  intro s i rest hreset hwire hreq
  rw [step, State.fetch_of_request hreset hwire hreq]

/-! ### What holds of the state an operation returns

`Returns o P` goes through the guards of an operation, so that a claim about every operation is left with
the operation's body. -/

/-- If the outcome is a next state, it satisfies `P`. -/
def Returns (o : Host.Outcome State Fault Refusal) (P : State → Prop) : Prop := ∀ t, o = .next t → P t

theorem returns_refused (r : Refusal) (P : State → Prop) : Returns (.refused r) P :=
  fun _ h => nomatch h

theorem returns_finish {s : State} {r : Result} {P : State → Prop} (h : P (s.returning r)) :
    Returns (s.finish r) P := by
  rintro t ⟨⟩
  exact h

theorem returns_whenLive {s : State} {k : Host.Outcome State Fault Refusal} {P : State → Prop}
    (h : Returns k P) : Returns (s.whenLive k) P := by
  unfold State.whenLive
  split
  · exact returns_refused _ P
  · exact h

theorem returns_whenSingleEnded {s : State} {k : Host.Outcome State Fault Refusal} {P : State → Prop}
    (h : Returns k P) : Returns (s.whenSingleEnded k) P := by
  unfold State.whenSingleEnded
  split
  · exact h
  · exact returns_refused _ P

/-! ### Operations are their traces -/

/-- `t` is left from `s` by some events alone, as far as all but the engine record goes, and the diagnostic
log has grown by the diagnostics among them. -/
def Traced (s t : State) : Prop :=
  ∃ evs, Ran s t evs ∧ t.engine.diag = s.engine.diag ++ diagsOf evs

theorem Performed.traced {s t : State} {evs : List Event} {e : Engine} {r : Result}
    (h : Performed s t evs e r) (hd : e.diag = s.engine.diag ++ diagsOf evs) : Traced s t :=
  ⟨evs, h.ran, by rw [h.engine, hd]⟩

theorem Traced.finish {s t : State} (h : Traced s t) (r : Result) : Returns (t.finish r) (Traced s) := by
  obtain ⟨evs, hran, hd⟩ := h
  exact returns_finish ⟨evs, hran.congr (ran_returning t r), hd⟩

theorem Traced.refl (s : State) : Traced s s := ⟨[], Ran.refl s, by simp [diagsOf]⟩

/-- A write of engine fields other than the log is no event. -/
theorem traced_withEngine (s : State) (e : Engine) (h : e.diag = s.engine.diag) :
    Traced s (s.withEngine e) :=
  ⟨[], ran_withEngine s e, by simp [h, diagsOf]⟩

theorem traced_writeCommand (cmd : Byte) (cs : Pin) (s : State) : Traced s (writeCommand cmd cs s) := by
  obtain ⟨r0, h⟩ := writeCommand_performed cmd cs s
  exact h.traced (by simp [diagsOf_window])

theorem traced_writeRegister (reg data : Byte) (cs : Pin) (s : State) :
    Traced s (writeRegister reg data cs s) := by
  obtain ⟨r0, r1, r2, h⟩ := writeRegister_performed reg data cs s
  exact h.traced (by simp [writeEvents, diagsOf_window])

theorem traced_readRegister (reg : Byte) (cs : Pin) (s : State) :
    Traced s (readRegister reg cs s).2 := by
  obtain ⟨r0, r1, h⟩ := readRegister_performed reg cs s
  exact h.traced (by simp [readEvents, diagsOf_window])

theorem traced_waitReady (drdy : Pin) (s : State) : Traced s (waitReady drdy s) := by
  obtain ⟨w, -, h⟩ := waitReady_performed drdy s
  exact h.traced (by rw [diagsOf_wait])

theorem traced_chipIdCheck (cs : Pin) (s : State) : Traced s (chipIdCheck cs s).2 := by
  obtain ⟨r0, r1, v, -, h⟩ := chipIdCheck_performed cs s
  exact h.traced rfl

theorem traced_configure (delay rate : Byte) (cs : Pin) (s : State) :
    Traced s (configure delay rate cs s) := by
  obtain ⟨a, b, c, d, h⟩ := configure_performed delay rate cs s
  exact h.traced rfl

theorem traced_initDevice (rate : Byte) (cs : Pin) (s : State) : Traced s (initDevice rate cs s) := by
  obtain ⟨r0, r1, v, x, a, b, c, d, h⟩ := initDevice_performed rate cs s
  exact h.traced rfl

theorem traced_resetPulse (rst : Pin) (s : State) : Traced s (resetPulse rst s) :=
  (resetPulse_performed rst s).traced (by simp [diagsOf])

theorem traced_selectChannel (ch : Byte) (cs : Pin) (s : State) : Traced s (selectChannel ch cs s) := by
  cases hch : channelValid ch with
  | false =>
    rw [selectChannel_of_invalid hch]
    exact Traced.refl s
  | true =>
    obtain ⟨a, h⟩ := selectChannel_performed cs s hch
    exact h.traced rfl

theorem traced_framedRead (cs : Pin) (s : State) : Traced s (framedRead cs s).2 :=
  (framedRead_performed cs s).traced (by simp [frameEvents, diagsOf_window])

theorem traced_readChannel (ch : Byte) (cs drdy : Pin) (s : State) :
    Traced s (readChannel ch cs drdy s).2 := by
  obtain ⟨evs, hran, heng, -⟩ := readChannel_changes ch cs drdy s
  exact ⟨evs, hran, by rw [heng]⟩

theorem traced_readChannels (list : List Byte) (cs drdy : Pin) (s : State) :
    Traced s (readChannels list cs drdy s) := by
  obtain ⟨vs, evs, -, -, hran, heng, -⟩ :=
    scanLoop_changes cs drdy list (s.withEngine { s.engine with out := [], idx := 0 })
  exact ⟨evs, (ran_withEngine s _).trans hran, by rw [readChannels, heng]; rfl⟩

theorem execSetmode_traced (mode : Byte) (s : State) : Returns (execSetmode mode s) (Traced s) := by
  refine returns_whenLive ?_
  cases scanModeOf mode with
  | none => exact returns_refused _ _
  | some m => exact (traced_withEngine s { s.engine with scanMode := m } rfl).finish .none

theorem execRdchans_traced (list : List Byte) (cs drdy : Pin) (s : State) :
    Returns (execRdchans list cs drdy s) (Traced s) := by
  have h := (traced_readChannels list cs drdy s).finish (.words (readChannels list cs drdy s).engine.out)
  refine returns_whenLive ?_
  cases list with
  | nil => exact h
  | cons ch rest => exact returns_whenSingleEnded h

/-- Every operation: its guards, then its body's trace. -/
theorem exec_traced (i : Instr) (s : State) : Returns (exec i s) (Traced s) := by
  cases i with
  | wcmd cmd cs => exact returns_whenLive ((traced_writeCommand cmd cs s).finish _)
  | wreg reg data cs => exact returns_whenLive ((traced_writeRegister reg data cs s).finish _)
  | rreg reg cs => exact returns_whenLive ((traced_readRegister reg cs s).finish _)
  | chksum value rx => exact returns_whenLive ((Traced.refl s).finish _)
  | waitrdy drdy => exact returns_whenLive ((traced_waitReady drdy s).finish _)
  | chipid cs => exact returns_whenLive ((traced_chipIdCheck cs s).finish _)
  | config delay rate cs => exact returns_whenLive ((traced_configure delay rate cs s).finish _)
  | init rate cs => exact returns_whenLive ((traced_initDevice rate cs s).finish _)
  | setmode mode => exact execSetmode_traced mode s
  | selch ch cs => exact returns_whenLive ((traced_selectChannel ch cs s).finish _)
  | framerd cs => exact returns_whenLive ((traced_framedRead cs s).finish _)
  | rdchan ch cs drdy =>
    exact returns_whenLive (returns_whenSingleEnded ((traced_readChannel ch cs drdy s).finish _))
  | rdchans list cs drdy => exact execRdchans_traced list cs drdy s
  | resetdev rst => exact returns_whenLive ((traced_resetPulse rst s).finish _)
  | shutdown =>
    exact returns_whenLive ((traced_withEngine s { s.engine with released := true } rfl).finish _)
  | reserved id => exact returns_whenLive (returns_refused _ _)
  | wireCmd cmd cs => exact returns_whenLive ((traced_writeCommand cmd cs s).finish _)
  | stop cs => exact returns_whenLive ((traced_writeCommand s.params.cmdStop cs s).finish _)
  | start cs => exact returns_whenLive ((traced_writeCommand s.params.cmdStart cs s).finish _)
  | wireWreg reg data cs => exact returns_whenLive ((traced_writeRegister reg data cs s).finish _)
  | wireRreg reg cs => exact returns_whenLive ((traced_readRegister reg cs s).finish _)
  | wireFrame cs => exact returns_whenLive ((traced_framedRead cs s).finish _)

/-- Settles O48: what `exec_traced` says of the state an operation returns. -/
theorem operationsAreTheirTraces : Obligations.OperationsAreTheirTraces :=
  fun i s => exec_traced i s

end Sys2Proof.Machine

/-! PROOFS of the family 10_state.md: the invariants between operations (R24 to R27, R29, R32, R40), the device
registers an operation may store to (R40, R50), and the fields no operation reads (95_test_vectors.md Part D 8). -/

namespace Sys2Proof.Machine

/-! ### Orderly events

The events of every operation, and those of the bring-up, are put together from a few pieces that begin and end
with no line low. What holds of each piece and of joined pieces holds of every operation. -/

/-- Events put together from whole transactions, whole reset pulses, and single events with no line low. A
transaction of more than one transfer stores to no device register outside `A` (R40). -/
inductive Orderly (p : Params) (A : List Nat) : List Event → Prop
  | nil : Orderly p A []
  | cfg (q : Pin) (d : Dir) : Orderly p A [.cfg q d]
  | high (q : Pin) : Orderly p A [.wr q .high]
  | rd (q : Pin) (l : Level) : Orderly p A [.rd q l]
  | dly (ms : Nat) : Orderly p A [.dly ms]
  | dg (d : Diag) : Orderly p A [.dg d]
  | pulse (q : Pin) (ms : Nat) : Orderly p A [.wr q .low, .dly ms, .wr q .high]
  | window (cs : Pin) (x : Byte × Byte) (xs : List (Byte × Byte))
      (h : xs ≠ [] → windowStore p cs x.1 ⊆ A) : Orderly p A (windowEvents cs (x :: xs))
  | append {a b : List Event} (ha : Orderly p A a) (hb : Orderly p A b) : Orderly p A (a ++ b)

namespace Orderly

variable {p : Params} {A B : List Nat}

theorem mono {evs : List Event} (h : Orderly p A evs) (hAB : A ⊆ B) : Orderly p B evs := by
  induction h with
  | nil => exact nil
  | cfg q d => exact cfg q d
  | high q => exact high q
  | rd q l => exact rd q l
  | dly ms => exact dly ms
  | dg d => exact dg d
  | pulse q ms => exact pulse q ms
  | window cs x xs h => exact window cs x xs fun hne => List.Subset.trans (h hne) hAB
  | append _ _ iha ihb => exact iha.append ihb

/-- Pieces that store to different registers, joined. -/
theorem join {a b : List Event} (ha : Orderly p A a) (hb : Orderly p B b) :
    Orderly p (A ++ B) (a ++ b) :=
  (ha.mono (List.subset_append_left A B)).append (hb.mono (List.subset_append_right A B))

/-! The events of the engine's sequences, each with the registers it may store to. -/

theorem command (cs : Pin) (cmd r0 : Byte) : Orderly p A (windowEvents cs [(cmd, r0)]) :=
  window cs (cmd, r0) [] (absurd rfl)

theorem write (cs : Pin) (reg data r0 r1 r2 : Byte) :
    Orderly p (windowStore p cs (writeOpcode p reg)) (writeEvents p cs reg data r0 r1 r2) :=
  window cs _ _ fun _ => List.Subset.refl _

theorem read (cs : Pin) (reg r0 r1 v : Byte) :
    Orderly p (windowStore p cs (readOpcode p reg)) (readEvents p cs reg r0 r1 v) :=
  window cs _ _ fun _ => List.Subset.refl _

theorem frame (cs : Pin) (f : Frame) :
    Orderly p (windowStore p cs Config.rdFill) (frameEvents cs f) :=
  window cs _ _ fun _ => List.Subset.refl _

theorem mismatch (cs : Pin) (reg written readback : Byte) :
    Orderly p A (mismatchEvents cs reg written readback) := by
  unfold mismatchEvents
  split
  · exact nil
  · exact dg _

theorem identity (cs : Pin) (r0 r1 v : Byte) :
    Orderly p (windowStore p cs (readOpcode p p.regId)) (identityEvents p cs r0 r1 v) :=
  (read cs _ r0 r1 v).append (dg _)

theorem configStep (cs : Pin) (reg val : Byte) (a : WriteBack) :
    Orderly p (writeBackStores p cs reg) (configStepEvents p cs reg val a) :=
  (((write cs reg val _ _ _).append (dly 5)).join (read cs reg _ _ _)).append (mismatch cs reg val _)

theorem configure (cs : Pin) (delay rate : Byte) (a b c d : WriteBack) :
    Orderly p ([p.regMode2, p.regRefmux, p.regMode0, p.regMode1].flatMap (writeBackStores p cs))
      (configEvents p cs delay rate a b c d) := by
  have h := (((configStep (p := p) cs p.regMode2 p.mode2Value a).join
    (configStep cs p.regRefmux p.refmuxValue b)).join (configStep cs p.regMode0 delay c)).join
    (configStep cs p.regMode1 rate d)
  simpa [configEvents] using h

theorem select (cs : Pin) (ch : Byte) (a : WriteBack) :
    Orderly p (writeBackStores p cs p.regInpmux) (selectEvents p cs ch a) :=
  ((write cs _ _ _ _ _).join (read cs _ _ _ _)).append (mismatch cs _ _ _)

theorem replicate_rd (q : Pin) (l : Level) (n : Nat) :
    Orderly p A (List.replicate n (.rd q l)) := by
  induction n with
  | zero => exact nil
  | succ n ih => exact (rd q l).append ih

theorem wait (drdy : Pin) (w : Wait) : Orderly p A (waitEvents drdy w) := by
  refine (replicate_rd drdy .high w.highs).append ?_
  split
  · exact dg _
  · exact rd _ _

theorem rounds (cs : Pin) (ch : Byte) (drdy : Pin) (rs : List ReadRound) :
    ∀ n, Orderly p (windowStore p cs Config.rdFill) (roundsEvents cs ch drdy n rs) := by
  induction rs with
  | nil => intro n; exact nil
  | cons r rest ih =>
    intro n
    refine ((((wait drdy r.wait).append (frame cs r.frame)).append ?_).append (ih (n + 1)))
    split
    · exact nil
    · exact dg _

theorem channel {ch : Byte} (hch : channelValid ch = true) (cs drdy : Pin) (x : Byte) (a : WriteBack)
    (y : Byte) (rs : List ReadRound) (ok : Bool) :
    Orderly p (channelStores p cs ch) (channelEvents p cs ch drdy x a y rs ok) := by
  have hend : Orderly p (windowStore p cs Config.rdFill) (endEvents cs ch ok) := by
    cases ok with
    | true => exact nil
    | false => exact dg _
  have h := (((command cs p.cmdStop x).append (select cs ch a)).append
    (command cs p.cmdStart y)).join ((rounds cs ch drdy rs 0).append hend)
  simpa [channelStores, hch, channelEvents] using h

theorem resetPulse (rst : Pin) (ms : Nat) : Orderly p A
    [.wr rst .high, .dly ms, .wr rst .low, .dly ms, .wr rst .high, .dly ms] :=
  (((high rst).append (dly ms)).append (pulse rst ms)).append (dly ms)

theorem bringUp (pinmap : List DevicePins) : Orderly p A (bringUpEvents pinmap) := by
  induction pinmap with
  | nil => exact nil
  | cons d rest ih =>
    exact (((((cfg d.rst .output).append (cfg d.cs .output)).append (cfg d.drdy .input)).append
      (high d.cs)).append (high d.rst)).append ih

end Orderly

/-! ### What orderly events keep -/

theorem BusPhase.run_append (a b : List Event) :
    ∀ ph : BusPhase, ph.run (a ++ b) = (ph.run a).bind fun mid => mid.run b := by
  induction a with
  | nil => intro ph; rfl
  | cons ev a ih =>
    intro ph
    simp only [List.cons_append, BusPhase.run]
    cases ph.next ev with
    | none => rfl
    | some mid => exact ih mid

theorem Framed.append {a b : List Event} (ha : Framed a) (hb : Framed b) : Framed (a ++ b) := by
  rw [Framed, BusPhase.run_append, ha]
  exact hb

/-- Inside a transaction the transfers go on until the line they stand under is released (R57). -/
theorem BusPhase.run_transferring (cs : Pin) (xs : List (Byte × Byte)) :
    BusPhase.run (.transferring cs) (xs.map (fun x => .xfer x.1 x.2) ++ [.wr cs .high]) = some .idle := by
  induction xs with
  | nil => simp [BusPhase.run, BusPhase.next]
  | cons x xs ih => exact ih

/-- R29, R57: orderly events are well framed. -/
theorem Orderly.framed {p : Params} {A : List Nat} {evs : List Event} (h : Orderly p A evs) :
    Framed evs := by
  induction h with
  | pulse q ms => simp [Framed, BusPhase.run, BusPhase.next]
  | window cs x xs _ => exact BusPhase.run_transferring cs xs
  | append _ _ iha ihb => exact iha.append ihb
  | _ => rfl

/-- No pin's recorded level is low (R32). -/
def Pins.AllHigh (s : Pins) : Prop := ∀ q : Nat, Table.get s.out q ≠ some .low

theorem Pins.AllHigh.set {s : Pins} {t : Table Level} (h : s.AllHigh) (k : Nat)
    (ht : ∀ q, q ≠ k → Table.get t q = Table.get s.out q) (d : Table Dir) :
    Pins.AllHigh { dir := d, out := Table.set t k .high } := by
  intro q
  by_cases hq : q = k
  · simp [hq, Table.get_set_self]
  · rw [Table.get_set_of_ne _ _ hq, ht q hq]
    exact h q

/-- Transfers leave the pins alone. -/
theorem Pins.applyAll_transfers (xs : List (Byte × Byte)) (s : Pins) :
    s.applyAll (xs.map fun x => .xfer x.1 x.2) = s := by
  induction xs with
  | nil => rfl
  | cons x xs ih => exact ih

/-- R32: orderly events leave every line high that they found high. -/
theorem Orderly.keeps_allHigh {p : Params} {A : List Nat} {evs : List Event} (h : Orderly p A evs) :
    ∀ s : Pins, s.AllHigh → (s.applyAll evs).AllHigh := by
  induction h with
  | high q => exact fun s hs => hs.set q.toNat (fun _ _ => rfl) s.dir
  | pulse q ms => exact fun s hs => hs.set q.toNat (fun _ => Table.get_set_of_ne s.out .low) s.dir
  | window cs x xs _ =>
    intro s hs
    rw [windowEvents, Pins.applyAll_append, Pins.applyAll_cons (t := List.map _ _), Pins.applyAll_transfers]
    exact hs.set cs.toNat (fun _ => Table.get_set_of_ne s.out .low) s.dir
  | append _ _ iha ihb =>
    intro s hs
    rw [Pins.applyAll_append]
    exact ihb _ (iha s hs)
  | _ => exact fun s hs => hs

/-- The two tables of the port are in canonical form. -/
def Pins.Canonical (s : Pins) : Prop := Table.wf s.dir = true ∧ Table.wf s.out = true

/-- Every list of events keeps the port's tables canonical. -/
theorem Pins.Canonical.applyAll (evs : List Event) :
    ∀ s : Pins, s.Canonical → (s.applyAll evs).Canonical := by
  induction evs with
  | nil => exact fun s h => h
  | cons ev evs ih =>
    intro s h
    refine ih (s.apply ev) ?_
    cases ev with
    | cfg q d => exact ⟨Table.wf_set _ _ _ h.1, h.2⟩
    | wr q l => exact ⟨h.1, Table.wf_set _ _ _ h.2⟩
    | rd q l => exact h
    | xfer b r => exact h
    | dly ms => exact h
    | dg d => exact h

/-- The mock's tables are in canonical form. -/
abbrev Mock.Canonical (m : Mock) : Prop := Env.Canonical (.mock m)

theorem Mock.Canonical.popFrame {m : Mock} (h : m.Canonical) (cs : Pin) : (m.popFrame cs).Canonical := by
  obtain ⟨hregs, hframes, hrepeat, hready, hreads⟩ := h
  unfold Mock.popFrame
  split
  · split
    · exact ⟨hregs, hframes, hrepeat, hready, hreads⟩
    · exact ⟨hregs, Table.wf_set _ _ _ hframes, hrepeat, hready, hreads⟩
  · exact ⟨hregs, Table.wf_set _ _ _ hframes, hrepeat, hready, hreads⟩
  · exact ⟨hregs, hframes, hrepeat, hready, hreads⟩

theorem Mock.Canonical.transferEffect {m : Mock} (h : m.Canonical) (p : Params) (w : Window) (b : Byte) :
    (m.transferEffect p w b).Canonical := by
  unfold Mock.transferEffect
  split
  · split
    · exact ⟨Memory.wf_write _ _ _ h.1, h.2⟩
    · exact h
  · split
    · exact h.popFrame w.cs
    · exact h
  · exact h
  · exact h

/-- A change of the open window and of the bus, with the read counts cleared, keeps the tables canonical. -/
theorem Mock.Canonical.clearReads {m : Mock} (h : m.Canonical) (w : Option Window) (bus : List Window) :
    Mock.Canonical { m with window := w, reads := [], bus := bus } := by
  obtain ⟨hregs, hframes, hrepeat, hready, -⟩ := h
  exact ⟨hregs, hframes, hrepeat, hready, rfl⟩

theorem Mock.Canonical.observe {m : Mock} (h : m.Canonical) (p : Params) (ev : Event) :
    (m.observe p ev).Canonical := by
  cases ev with
  | cfg q d => exact h
  | wr q l =>
    cases l with
    | low => exact h.clearReads _ _
    | high =>
      simp only [Mock.observe]
      split
      · split <;> exact h.clearReads _ _
      · exact h.clearReads _ _
  | rd q l =>
    obtain ⟨hregs, hframes, hrepeat, hready, hreads⟩ := h
    exact ⟨hregs, hframes, hrepeat, hready, Table.wf_set _ _ _ hreads⟩
  | xfer b r =>
    simp only [Mock.observe]
    split
    · exact (h.transferEffect p _ b).clearReads _ _
    · exact h.clearReads _ _
  | dly ms => exact h
  | dg d => exact h

theorem Env.Canonical.observe {e : Env} (h : e.Canonical) (p : Params) (ev : Event) :
    (e.observe p ev).Canonical := by
  cases e with
  | unconstrained => trivial
  | scripted bytes levels => cases ev <;> trivial
  | mock m => exact Mock.Canonical.observe h p ev

/-- Every list of events keeps the environment's tables canonical. -/
theorem Env.Canonical.observeAll (p : Params) (evs : List Event) :
    ∀ e : Env, e.Canonical → (e.observeAll p evs).Canonical := by
  induction evs with
  | nil => exact fun e h => h
  | cons ev evs ih => exact fun e h => ih _ (h.observe p ev)

/-! ### Where orderly events store in the mock -/

/-- The mock after it has seen a list of events. -/
def Mock.observeAll (p : Params) (m : Mock) (evs : List Event) : Mock := evs.foldl (Mock.observe p) m

theorem Mock.observeAll_append (p : Params) (m : Mock) (a b : List Event) :
    m.observeAll p (a ++ b) = (m.observeAll p a).observeAll p b := by
  simp [Mock.observeAll]

theorem Env.observeAll_mock (p : Params) (evs : List Event) :
    ∀ m : Mock, Env.observeAll p (.mock m) evs = .mock (m.observeAll p evs) := by
  induction evs with
  | nil => intro m; rfl
  | cons ev evs ih => exact fun m => ih (m.observe p ev)

/-- A line that is written stores nothing. -/
theorem Mock.regs_observe_wr (p : Params) (m : Mock) (q : Pin) (l : Level) :
    (m.observe p (.wr q l)).regs = m.regs := by
  cases l with
  | low => rfl
  | high =>
    simp only [Mock.observe]
    split
    · split <;> rfl
    · rfl

theorem Mock.regs_popFrame (m : Mock) (cs : Pin) : (m.popFrame cs).regs = m.regs := by
  unfold Mock.popFrame
  split
  · split <;> rfl
  · rfl
  · rfl

/-- The mock takes a first byte of the write class for a register write (R40). -/
theorem mockKind_of_write {p : Params} {b : Byte} (h : b &&& p.classMask = p.opWreg) :
    mockKind p b = .regWrite (b &&& ~~~p.classMask) := if_pos h

/-- Where the mock takes the first byte for a register write, that register's address is the window's. -/
theorem windowStore_of_regWrite {p : Params} {b r : Byte} (h : mockKind p b = .regWrite r) (cs : Pin) :
    windowStore p cs b = [regAddr cs r] := by
  by_cases hclass : b &&& p.classMask = p.opWreg
  · rw [mockKind_of_write hclass] at h
    cases h
    exact if_pos hclass
  · rw [mockKind, if_neg hclass] at h
    split at h
    · cases h
    · split at h <;> cases h

/-- A transfer whose window's first byte writes another register leaves the register at `a` as it is. -/
theorem Mock.read_transferEffect {p : Params} {w : Window} {b : Byte} {a : Nat}
    (ha : a ∉ windowStore p w.cs (w.firstByte b)) (m : Mock) :
    (m.transferEffect p w b).regs.read a = m.regs.read a := by
  unfold Mock.transferEffect
  split
  next r hkind =>
    rw [windowStore_of_regWrite hkind, List.mem_singleton] at ha
    split
    · exact (Memory.read_write _ _ _ _).trans (if_neg (Ne.symm ha))
    · rfl
  next =>
    split
    · rw [Mock.regs_popFrame]
    · rfl
  next => rfl
  next => rfl

/-- The first transfer of a window stores nothing. -/
theorem Mock.regs_transferEffect_first (p : Params) (m : Mock) (cs : Pin) (b : Byte) :
    (m.transferEffect p { cs := cs, bytes := [] } b).regs = m.regs := by
  unfold Mock.transferEffect
  split <;> rfl

/-- Transfers under an open window whose first byte writes another register leave the register at `a` as it
is. -/
theorem Mock.read_observeAll_transfers {p : Params} {cs : Pin} {b0 : Byte} {a : Nat}
    (ha : a ∉ windowStore p cs b0) (xs : List (Byte × Byte)) :
    ∀ (m : Mock) (r0 : Byte) (sent : List (Byte × Byte)),
      m.window = some { cs := cs, bytes := (b0, r0) :: sent } →
      (m.observeAll p (xs.map fun x => .xfer x.1 x.2)).regs.read a = m.regs.read a := by
  induction xs with
  | nil => intro m r0 sent _; rfl
  | cons x xs ih =>
    intro m r0 sent hw
    refine (ih (m.observe p (.xfer x.1 x.2)) r0 (sent ++ [x]) ?_).trans ?_
    · simp [Mock.observe, hw]
    · simp only [Mock.observe, hw]
      exact Mock.read_transferEffect (w := { cs := cs, bytes := (b0, r0) :: sent }) ha m

/-- R40: the registers orderly events do not store to read as before. -/
theorem Orderly.read_unchanged {p : Params} {A : List Nat} {evs : List Event} (h : Orderly p A evs)
    {a : Nat} (ha : a ∉ A) : ∀ m : Mock, (m.observeAll p evs).regs.read a = m.regs.read a := by
  induction h with
  | high q => exact fun m => congrArg (Memory.read · a) (Mock.regs_observe_wr p m q .high)
  | pulse q ms =>
    exact fun m => congrArg (Memory.read · a) (Mock.regs_observe_wr p (m.observe p (.wr q .low)) q .high)
  | window cs x xs hstore =>
    intro m
    rw [windowEvents, Mock.observeAll_append]
    refine (congrArg (Memory.read · a) (Mock.regs_observe_wr p _ cs .high)).trans ?_
    have hfirst : ((m.observe p (.wr cs .low)).observe p (.xfer x.1 x.2)).regs = m.regs :=
      Mock.regs_transferEffect_first p _ cs x.1
    rw [← hfirst]
    rcases eq_or_ne xs [] with rfl | hne
    · rfl
    · exact Mock.read_observeAll_transfers (fun hmem => ha (hstore hne hmem)) xs _ x.2 [] rfl
  | append _ _ iha ihb =>
    intro m
    rw [Mock.observeAll_append, ihb, iha]
  | _ => exact fun m => rfl

/-! ### What every operation keeps -/

/-- What no operation breaks in the engine record: with no line held and the sequencer idle before it, so it is
after it (R24, R29); the counters stay in their ranges (R25 to R27) and the two maps canonical (R23). -/
structure Engine.Keeps (p : Params) (e f : Engine) : Prop where
  quiescent : e.csHeld = none ∧ e.phase = .idle → f.csHeld = none ∧ f.phase = .idle
  counters : e.attempt ≤ Config.retryLimit ∧ e.poll ≤ pollBound p ∧ e.idx = e.out.length →
    f.attempt ≤ Config.retryLimit ∧ f.poll ≤ pollBound p ∧ f.idx = f.out.length
  maps : e.rate.wf = true ∧ e.chipId.wf = true → f.rate.wf = true ∧ f.chipId.wf = true

theorem Engine.Keeps.refl (p : Params) (e : Engine) : Engine.Keeps p e e := ⟨id, id, id⟩

theorem Engine.Keeps.trans {p : Params} {e f g : Engine} (h : Engine.Keeps p e f)
    (k : Engine.Keeps p f g) : Engine.Keeps p e g :=
  ⟨k.quiescent ∘ h.quiescent, k.counters ∘ h.counters, k.maps ∘ h.maps⟩

/-- A change of the frame and the log, with no line held after it. -/
theorem Engine.keeps_release (p : Params) (e : Engine) (fr : Option Frame) (d : List Diag) :
    Engine.Keeps p e { e with frame := fr, csHeld := none, diag := d } :=
  ⟨fun h => ⟨rfl, h.2⟩, id, id⟩

/-- A change of the mode and the released flag. -/
theorem Engine.keeps_mode (p : Params) (e : Engine) (m : ScanMode) (r : Bool) :
    Engine.Keeps p e { e with scanMode := m, released := r } :=
  ⟨id, id, id⟩

/-- `t` is left from `s` by orderly events that store at `A` only, and the engine record has kept what every
operation keeps. -/
structure Conducted (A : List Nat) (s t : State) : Prop where
  events : ∃ evs, Ran s t evs ∧ Orderly s.params A evs
  engine : Engine.Keeps s.params s.engine t.engine

theorem Performed.conducted {A : List Nat} {s t : State} {evs : List Event} {e : Engine} {r : Result}
    (h : Performed s t evs e r) (ho : Orderly s.params A evs) (he : Engine.Keeps s.params s.engine e) :
    Conducted A s t :=
  ⟨⟨evs, h.ran, ho⟩, h.engine ▸ he⟩

namespace Conducted

variable {A B : List Nat} {s t u : State}

theorem refl (s : State) : Conducted A s s := ⟨⟨[], Ran.refl s, .nil⟩, .refl _ _⟩

theorem withEngine {e : Engine} (h : Engine.Keeps s.params s.engine e) :
    Conducted A s (s.withEngine e) :=
  ⟨⟨[], ran_withEngine s e, .nil⟩, h⟩

theorem params_eq (h : Conducted A s t) : t.params = s.params := by
  obtain ⟨⟨evs, hran, -⟩, -⟩ := h
  exact hran.params

theorem mono (h : Conducted A s t) (hAB : A ⊆ B) : Conducted B s t := by
  obtain ⟨⟨evs, hran, ho⟩, he⟩ := h
  exact ⟨⟨evs, hran, ho.mono hAB⟩, he⟩

theorem trans (h : Conducted A s t) (k : Conducted A t u) : Conducted A s u := by
  have hp := h.params_eq
  obtain ⟨⟨a, hran, ho⟩, he⟩ := h
  obtain ⟨⟨b, kran, ko⟩, ke⟩ := k
  rw [hp] at ko ke
  exact ⟨⟨a ++ b, hran.trans kran, ho.append ko⟩, he.trans ke⟩

theorem finish (h : Conducted A s t) (r : Result) : Returns (t.finish r) (Conducted A s) := by
  obtain ⟨⟨evs, hran, ho⟩, he⟩ := h
  exact returns_finish ⟨⟨evs, hran.congr (ran_returning t r), ho⟩, he⟩

end Conducted

theorem conducted_writeCommand (A : List Nat) (cmd : Byte) (cs : Pin) (s : State) :
    Conducted A s (writeCommand cmd cs s) := by
  obtain ⟨r0, h⟩ := writeCommand_performed cmd cs s
  exact h.conducted (.command cs cmd r0) (Engine.keeps_release ..)

theorem conducted_writeRegister (reg data : Byte) (cs : Pin) (s : State) :
    Conducted (windowStore s.params cs (writeOpcode s.params reg)) s (writeRegister reg data cs s) := by
  obtain ⟨r0, r1, r2, h⟩ := writeRegister_performed reg data cs s
  exact h.conducted (.write ..) (Engine.keeps_release ..)

theorem conducted_readRegister (reg : Byte) (cs : Pin) (s : State) :
    Conducted (windowStore s.params cs (readOpcode s.params reg)) s (readRegister reg cs s).2 := by
  obtain ⟨r0, r1, h⟩ := readRegister_performed reg cs s
  exact h.conducted (.read ..) (Engine.keeps_release ..)

/-- The bound of R130 holds of what a wait counts. -/
theorem Wait.Allowed.highs_le {p : Params} {w : Wait} (h : w.Allowed p) : w.highs ≤ pollBound p := by
  unfold Wait.Allowed at h
  split at h
  · exact h.le
  · exact h.le

theorem conducted_waitReady (A : List Nat) (drdy : Pin) (s : State) :
    Conducted A s (waitReady drdy s) := by
  obtain ⟨w, hw, h⟩ := waitReady_performed drdy s
  exact h.conducted (.wait drdy w)
    ⟨id, fun ⟨hattempt, _, hidx⟩ => ⟨hattempt, hw.highs_le, hidx⟩, id⟩

theorem conducted_chipIdCheck (cs : Pin) (s : State) :
    Conducted (windowStore s.params cs (readOpcode s.params s.params.regId)) s (chipIdCheck cs s).2 := by
  obtain ⟨r0, r1, v, -, h⟩ := chipIdCheck_performed cs s
  exact h.conducted (.identity cs r0 r1 v)
    ⟨fun hq => ⟨rfl, hq.2⟩, id, fun ⟨hrate, hid⟩ => ⟨hrate, Memory.wf_write _ _ _ hid⟩⟩

theorem conducted_configure (delay rate : Byte) (cs : Pin) (s : State) :
    Conducted (storeAddrs s.params (.config delay rate cs)) s (configure delay rate cs s) := by
  obtain ⟨a, b, c, d, h⟩ := configure_performed delay rate cs s
  exact h.conducted (.configure ..) (Engine.keeps_release ..)

theorem conducted_initDevice (rate : Byte) (cs : Pin) (s : State) :
    Conducted (storeAddrs s.params (.init rate cs)) s (initDevice rate cs s) := by
  obtain ⟨r0, r1, v, x, a, b, c, d, h⟩ := initDevice_performed rate cs s
  exact h.conducted (((Orderly.identity cs r0 r1 v).append (.command cs _ x)).join (.configure ..))
    ⟨fun hq => ⟨rfl, hq.2⟩, id,
      fun ⟨hrate, hid⟩ => ⟨Memory.wf_write _ _ _ hrate, Memory.wf_write _ _ _ hid⟩⟩

theorem conducted_resetPulse (A : List Nat) (rst : Pin) (s : State) :
    Conducted A s (resetPulse rst s) :=
  (resetPulse_performed rst s).conducted (.resetPulse rst _) (.refl _ _)

theorem conducted_selectChannel (ch : Byte) (cs : Pin) (s : State) :
    Conducted (storeAddrs s.params (.selch ch cs)) s (selectChannel ch cs s) := by
  cases hch : channelValid ch with
  | false =>
    rw [selectChannel_of_invalid hch]
    exact .refl s
  | true =>
    obtain ⟨a, h⟩ := selectChannel_performed cs s hch
    simp only [storeAddrs, hch, if_true]
    exact h.conducted (.select cs ch a) (Engine.keeps_release ..)

theorem conducted_framedRead (cs : Pin) (s : State) :
    Conducted (windowStore s.params cs Config.rdFill) s (framedRead cs s).2 :=
  (framedRead_performed cs s).conducted (.frame ..) (Engine.keeps_release ..)

/-- The last wait of a channel read counts no more than the bound. -/
theorem RoundsReturn.poll_le {p : Params} {n : Nat} {rs : List ReadRound} {ok : Bool} {v : Word}
    (h : RoundsReturn p n rs ok v) :
    (rs.getLast?.map fun r => r.wait.highs).getD 0 ≤ pollBound p := by
  cases hlast : rs.getLast? with
  | none => exact Nat.zero_le _
  | some r => exact (h.waits r (List.mem_of_getLast? hlast)).highs_le

theorem conducted_readChannel (ch : Byte) (cs drdy : Pin) (s : State) :
    Conducted (channelStores s.params cs ch) s (readChannel ch cs drdy s).2 := by
  cases hch : channelValid ch with
  | false =>
    rw [readChannel_of_invalid hch]
    exact conducted_writeCommand _ _ cs s
  | true =>
    obtain ⟨⟨x, a, y, rs, ok, hret, hran, heng, -⟩, -⟩ := readChannel_ran cs drdy s hch
    refine ⟨⟨_, hran, .channel hch cs drdy x a y rs ok⟩, ?_⟩
    have hmost : rs.length ≤ Config.retryLimit := by simpa [Config.retryLimit] using hret.most
    rw [heng]
    exact ⟨fun _ => ⟨rfl, rfl⟩, fun ⟨_, _, hidx⟩ => ⟨hmost, hret.poll_le, hidx⟩, id⟩

/-- One more value in `E.out`, and `E.idx` one further (R27). -/
def Engine.push (e : Engine) (v : Word) : Engine := { e with out := e.out ++ [v], idx := e.idx + 1 }

/-- The scan of a non-empty list: a channel read, its value kept, and the rest (R180). -/
theorem scanLoop_cons (cs drdy : Pin) (ch : Byte) (rest : List Byte) (s : State) :
    scanLoop cs drdy (ch :: rest) s =
      scanLoop cs drdy rest ((readChannel ch cs drdy s).2.withEngine
        ((readChannel ch cs drdy s).2.engine.push (readChannel ch cs drdy s).1)) := rfl

theorem Engine.keeps_push (p : Params) (e : Engine) (v : Word) : Engine.Keeps p e (e.push v) :=
  ⟨id, fun ⟨hattempt, hpoll, hidx⟩ => ⟨hattempt, hpoll, by simp [Engine.push, hidx]⟩, id⟩

theorem conducted_scanLoop (cs drdy : Pin) (list : List Byte) :
    ∀ s : State, Conducted (list.flatMap (channelStores s.params cs)) s (scanLoop cs drdy list s) := by
  induction list with
  | nil => intro s; exact .refl s
  | cons ch rest ih =>
    intro s
    have hread := conducted_readChannel ch cs drdy s
    have hpush := hread.trans (.withEngine (Engine.keeps_push _ _ (readChannel ch cs drdy s).1))
    have hrest := ih ((readChannel ch cs drdy s).2.withEngine
      ((readChannel ch cs drdy s).2.engine.push (readChannel ch cs drdy s).1))
    rw [hpush.params_eq] at hrest
    rw [scanLoop_cons]
    exact (hpush.mono (List.subset_append_left _ _)).trans (hrest.mono (List.subset_append_right _ _))

theorem conducted_readChannels (list : List Byte) (cs drdy : Pin) (s : State) :
    Conducted (storeAddrs s.params (.rdchans list cs drdy)) s (readChannels list cs drdy s) := by
  have hclear : Engine.Keeps s.params s.engine { s.engine with out := [], idx := 0 } :=
    ⟨id, fun ⟨hattempt, hpoll, _⟩ => ⟨hattempt, hpoll, rfl⟩, id⟩
  exact (Conducted.withEngine hclear).trans
    (conducted_scanLoop cs drdy list (s.withEngine { s.engine with out := [], idx := 0 }))

theorem execSetmode_conducted (mode : Byte) (s : State) :
    Returns (execSetmode mode s) (Conducted [] s) := by
  refine returns_whenLive ?_
  cases scanModeOf mode with
  | none => exact returns_refused _ _
  | some m => exact (Conducted.withEngine (Engine.keeps_mode _ s.engine m _)).finish .none

theorem execRdchans_conducted (list : List Byte) (cs drdy : Pin) (s : State) :
    Returns (execRdchans list cs drdy s) (Conducted (storeAddrs s.params (.rdchans list cs drdy)) s) := by
  have h := (conducted_readChannels list cs drdy s).finish
    (.words (readChannels list cs drdy s).engine.out)
  refine returns_whenLive ?_
  cases list with
  | nil => exact h
  | cons ch rest => exact returns_whenSingleEnded h

/-- Every operation: its guards, then what its body conducts. -/
theorem exec_conducted (i : Instr) (s : State) :
    Returns (exec i s) (Conducted (storeAddrs s.params i) s) := by
  cases i with
  | wcmd cmd cs => exact returns_whenLive ((conducted_writeCommand _ cmd cs s).finish _)
  | wreg reg data cs => exact returns_whenLive ((conducted_writeRegister reg data cs s).finish _)
  | rreg reg cs => exact returns_whenLive ((conducted_readRegister reg cs s).finish _)
  | chksum value rx => exact returns_whenLive ((Conducted.refl s).finish _)
  | waitrdy drdy => exact returns_whenLive ((conducted_waitReady _ drdy s).finish _)
  | chipid cs => exact returns_whenLive ((conducted_chipIdCheck cs s).finish _)
  | config delay rate cs => exact returns_whenLive ((conducted_configure delay rate cs s).finish _)
  | init rate cs => exact returns_whenLive ((conducted_initDevice rate cs s).finish _)
  | setmode mode => exact execSetmode_conducted mode s
  | selch ch cs => exact returns_whenLive ((conducted_selectChannel ch cs s).finish _)
  | framerd cs => exact returns_whenLive ((conducted_framedRead cs s).finish _)
  | rdchan ch cs drdy =>
    exact returns_whenLive (returns_whenSingleEnded ((conducted_readChannel ch cs drdy s).finish _))
  | rdchans list cs drdy => exact execRdchans_conducted list cs drdy s
  | resetdev rst => exact returns_whenLive ((conducted_resetPulse _ rst s).finish _)
  | shutdown =>
    exact returns_whenLive ((Conducted.withEngine (Engine.keeps_mode _ s.engine _ true)).finish _)
  | reserved id => exact returns_whenLive (returns_refused _ _)
  | wireCmd cmd cs => exact returns_whenLive ((conducted_writeCommand _ cmd cs s).finish _)
  | stop cs => exact returns_whenLive ((conducted_writeCommand _ _ cs s).finish _)
  | start cs => exact returns_whenLive ((conducted_writeCommand _ _ cs s).finish _)
  | wireWreg reg data cs => exact returns_whenLive ((conducted_writeRegister reg data cs s).finish _)
  | wireRreg reg cs => exact returns_whenLive ((conducted_readRegister reg cs s).finish _)
  | wireFrame cs => exact returns_whenLive ((conducted_framedRead cs s).finish _)

/-! ### What every step keeps -/

/-- What a step does: the reset, nothing, or an operation in the state its bytes have been taken from. -/
theorem step_cases {s t : State} (h : step s = .next t) :
    t = s.engineReset ∨ t = s ∨
      ∃ (i : Instr) (host : List Byte) (wire : Option (Pin × List Byte)),
        exec i { s with hostIn := host, wireIn := wire } = .next t := by
  unfold step State.fetch at h
  split at h
  case h_1 => cases h; exact .inl rfl
  case h_2 => cases h; exact .inr (.inl rfl)
  case h_4 => cases h
  case h_3 i u hfetch =>
    refine .inr (.inr ⟨i, ?_⟩)
    split at hfetch
    · cases hfetch
    · split at hfetch
      · split at hfetch
        · cases hfetch; exact ⟨s.hostIn, none, h⟩
        · cases hfetch
      · split at hfetch
        · cases hfetch; exact ⟨_, s.wireIn, h⟩
        · cases hfetch

/-- An invariant that does not look at the inputs, holds after engine reset, and is kept by whatever is
conducted, is kept by every step. -/
theorem step_keeps {P : State → Prop} (hreset : ∀ s, P s → P s.engineReset)
    (hinputs : ∀ s host wire, P s → P { s with hostIn := host, wireIn := wire })
    (hexec : ∀ A s t, Conducted A s t → P s → P t) :
    ∀ s t, P s → step s = .next t → P t := by
  intro s t hs hstep
  rcases step_cases hstep with rfl | rfl | ⟨i, host, wire, hrun⟩
  · exact hreset s hs
  · exact hs
  · exact hexec _ _ t (exec_conducted i _ t hrun) (hinputs s host wire hs)

/-- Settles O54: engine reset leaves no line held and the phase idle, and operations keep both. -/
theorem stepKeepsQuiescent : Obligations.StepKeepsQuiescent := by
  refine step_keeps (fun s _ => ?_) (fun _ _ _ h => h) (fun _ _ _ h => h.engine.quiescent)
  rw [engineReset_eq]
  exact ⟨rfl, rfl⟩

/-- Settles O55: what is appended to the trace is orderly, and so well framed. -/
theorem stepKeepsTraceFramed : Obligations.StepKeepsTraceFramed := by
  refine step_keeps (fun s hs => ?_) (fun _ _ _ h => h) (fun A s t h hs => ?_)
  · rw [engineReset_eq]
    exact hs.append (Orderly.bringUp (p := s.params) (A := []) s.params.pinmap).framed
  · obtain ⟨⟨evs, hran, ho⟩, -⟩ := h
    rw [hran.trace]
    exact hs.append ho.framed

/-- Settles O56: the engine's own maps by what operations keep, the port's and the environment's since every
event keeps them. -/
theorem stepKeepsTablesCanonical : Obligations.StepKeepsTablesCanonical := by
  refine step_keeps (fun s hs => ?_) (fun _ _ _ h => h) (fun A s t h hs => ?_)
  · obtain ⟨-, -, hdir, hout, henv⟩ := hs
    rw [engineReset_eq]
    obtain ⟨hdir', hout'⟩ :=
      Pins.Canonical.applyAll (bringUpEvents s.params.pinmap) s.pins ⟨hdir, hout⟩
    exact ⟨rfl, rfl, hdir', hout', henv.observeAll s.params _ _⟩
  · obtain ⟨hrate, hid, hdir, hout, henv⟩ := hs
    obtain ⟨⟨evs, hran, -⟩, hkeeps⟩ := h
    obtain ⟨hrate', hid'⟩ := hkeeps.maps ⟨hrate, hid⟩
    obtain ⟨hdir', hout'⟩ := Pins.Canonical.applyAll evs s.pins ⟨hdir, hout⟩
    rw [← hran.pins] at hdir' hout'
    exact ⟨hrate', hid', hdir', hout', hran.env ▸ henv.observeAll s.params evs _⟩

/-- Settles O57: engine reset clears the counters, and operations keep them in range. -/
theorem stepKeepsCountersInRange : Obligations.StepKeepsCountersInRange := by
  refine step_keeps (fun s _ => ?_) (fun _ _ _ h => h) (fun A s t h hs => ?_)
  · rw [engineReset_eq]
    exact ⟨Nat.zero_le _, Nat.zero_le _, rfl⟩
  · rw [State.CountersInRange, h.params_eq]
    exact h.engine.counters hs

/-- Settles O58: the pins of the next state are left by orderly events. -/
theorem stepKeepsLinesHigh : Obligations.StepKeepsLinesHigh := by
  refine step_keeps (fun s hs => ?_) (fun _ _ _ h => h) (fun A s t h hs => ?_)
  · rw [engineReset_eq]
    exact (Orderly.bringUp (p := s.params) (A := []) s.params.pinmap).keeps_allHigh s.pins hs
  · obtain ⟨⟨evs, hran, ho⟩, -⟩ := h
    have hpins : t.pins.AllHigh := hran.pins ▸ ho.keeps_allHigh s.pins hs
    exact hpins

/-! ### The reference mock's registers -/

/-- Settles O18: an operation's events are orderly with the registers its windows name. -/
theorem mockRegistersOutsideStoresUnchanged : Obligations.MockRegistersOutsideStoresUnchanged := by
  intro i s t m henv hexec
  obtain ⟨⟨evs, hran, ho⟩, -⟩ := exec_conducted i s t hexec
  refine ⟨m.observeAll s.params evs, ?_, fun a ha => ho.read_unchanged ha m⟩
  rw [hran.env, henv, Env.observeAll_mock]

/-- The registers after a register write whose first byte is of the write class: the data byte stands at the
address of that byte (R40, R111). -/
theorem Mock.regs_observeAll_write {p : Params} {reg : Byte}
    (h : writeOpcode p reg &&& p.classMask = p.opWreg) (cs : Pin) (data r0 r1 r2 : Byte) (m : Mock) :
    (m.observeAll p (writeEvents p cs reg data r0 r1 r2)).regs =
      m.regs.write (regAddr cs (writeOpcode p reg &&& ~~~p.classMask)) data := by
  have hkind := mockKind_of_write h
  unfold writeOpcode at hkind
  simp [Mock.observeAll, writeEvents, windowEvents, Mock.observe, Mock.transferEffect, Window.firstByte,
    hkind, writeOpcode]

/-- Settles O19: the data byte by the write itself, every other register since the window stores nowhere
else. -/
theorem mockWregStoresDataByte : Obligations.MockWregStoresDataByte := by
  intro reg data cs s m hlive henv
  obtain ⟨r0, r1, r2, h⟩ := writeRegister_performed reg data cs s
  refine ⟨_, m.observeAll s.params (writeEvents s.params cs reg data r0 r1 r2),
    whenLive_of_live hlive, ?_, fun a ha => ?_, fun a ha => ?_⟩
  · rw [State.returning_env, h.ran.env, henv, Env.observeAll_mock]
  · obtain ⟨hclass, rfl⟩ : writeOpcode s.params reg &&& s.params.classMask = s.params.opWreg ∧
        a = regAddr cs (writeOpcode s.params reg &&& ~~~s.params.classMask) := by
      simpa [windowStore, writeOpcode] using ha
    rw [Mock.regs_observeAll_write hclass, Memory.read_write, if_pos rfl]
  · exact (Orderly.write cs reg data r0 r1 r2).read_unchanged ha m

/-! ### The fields no operation reads

A run from a state with another log, other maps and another phase goes the same way and ends in a state that
differs in these four only (R24, R30). -/

/-- The state with these four fields of the engine record in place of its own. -/
def State.withRecord (s : State) (d : List Diag) (r c : Memory) (ph : Phase) : State :=
  s.withEngine { s.engine with diag := d, rate := r, chipId := c, phase := ph }

/-- `u` is `s` but for the log, the two maps and the phase. -/
def Alike (s u : State) : Prop := ∃ d r c ph, u = s.withRecord d r c ph

/-- A value and a state each, the same value and states alike. -/
def AlikeWith {α : Type} (x y : α × State) : Prop := y.1 = x.1 ∧ Alike x.2 y.2

section

variable {s u : State}

/-- A function of the state that carries the four fields through keeps states alike. -/
theorem Alike.map {f : State → State} (h : Alike s u)
    (hf : ∀ (s : State) d r c ph, f (s.withRecord d r c ph) = (f s).withRecord d r c ph) :
    Alike (f s) (f u) := by
  obtain ⟨d, r, c, ph, rfl⟩ := h
  exact ⟨d, r, c, ph, hf s d r c ph⟩

theorem Alike.params_eq (h : Alike s u) : u.params = s.params := by
  obtain ⟨d, r, c, ph, rfl⟩ := h
  rfl

theorem Alike.released_eq (h : Alike s u) : u.engine.released = s.engine.released := by
  obtain ⟨d, r, c, ph, rfl⟩ := h
  rfl

theorem Alike.scanMode_eq (h : Alike s u) : u.engine.scanMode = s.engine.scanMode := by
  obtain ⟨d, r, c, ph, rfl⟩ := h
  rfl

theorem Alike.attempt_eq (h : Alike s u) : u.engine.attempt = s.engine.attempt := by
  obtain ⟨d, r, c, ph, rfl⟩ := h
  rfl

theorem Alike.poll_eq (h : Alike s u) : u.engine.poll = s.engine.poll := by
  obtain ⟨d, r, c, ph, rfl⟩ := h
  rfl

theorem Alike.out_eq (h : Alike s u) : u.engine.out = s.engine.out := by
  obtain ⟨d, r, c, ph, rfl⟩ := h
  rfl

theorem Alike.setPhase (h : Alike s u) (ph : Phase) : Alike (s.setPhase ph) (u.setPhase ph) := by
  obtain ⟨d, r, c, _, rfl⟩ := h
  exact ⟨d, r, c, ph, rfl⟩

theorem Alike.diagnose (h : Alike s u) (g : Diag) : Alike (s.diagnose g) (u.diagnose g) := by
  obtain ⟨d, r, c, ph, rfl⟩ := h
  exact ⟨d ++ [g], r, c, ph, rfl⟩

theorem Alike.recordRate (h : Alike s u) (cs : Pin) (rate : Byte) :
    Alike (s.withEngine { s.engine with rate := s.engine.rate.write cs.toNat rate })
      (u.withEngine { u.engine with rate := u.engine.rate.write cs.toNat rate }) := by
  obtain ⟨d, r, c, ph, rfl⟩ := h
  exact ⟨d, r.write cs.toNat rate, c, ph, rfl⟩

theorem Alike.delay (h : Alike s u) (ms : Nat) : Alike (s.delay ms) (u.delay ms) :=
  h.map (f := (·.delay ms)) fun _ _ _ _ _ => rfl

theorem alike_writeCommand (h : Alike s u) (cmd : Byte) (cs : Pin) :
    Alike (writeCommand cmd cs s) (writeCommand cmd cs u) :=
  h.map fun _ _ _ _ _ => rfl

theorem alike_stopConversions (h : Alike s u) (cs : Pin) :
    Alike (stopConversions cs s) (stopConversions cs u) :=
  h.map fun _ _ _ _ _ => rfl

theorem alike_startConversions (h : Alike s u) (cs : Pin) :
    Alike (startConversions cs s) (startConversions cs u) :=
  h.map fun _ _ _ _ _ => rfl

theorem alike_writeRegister (h : Alike s u) (reg data : Byte) (cs : Pin) :
    Alike (writeRegister reg data cs s) (writeRegister reg data cs u) :=
  h.map fun _ _ _ _ _ => rfl

theorem alike_resetPulse (h : Alike s u) (rst : Pin) : Alike (resetPulse rst s) (resetPulse rst u) :=
  h.map fun _ _ _ _ _ => rfl

theorem alike_readRegister (h : Alike s u) (reg : Byte) (cs : Pin) :
    AlikeWith (readRegister reg cs s) (readRegister reg cs u) := by
  obtain ⟨d, r, c, ph, rfl⟩ := h
  exact ⟨rfl, d, r, c, ph, rfl⟩

theorem alike_pinRead (h : Alike s u) (p : Pin) : AlikeWith (s.pinRead p) (u.pinRead p) := by
  obtain ⟨d, r, c, ph, rfl⟩ := h
  exact ⟨rfl, d, r, c, ph, rfl⟩

theorem alike_framedRead (h : Alike s u) (cs : Pin) :
    AlikeWith (framedRead cs s) (framedRead cs u) := by
  obtain ⟨d, r, c, ph, rfl⟩ := h
  exact ⟨rfl, d, r, c, ph, rfl⟩

theorem alike_chipIdCheck (h : Alike s u) (cs : Pin) :
    AlikeWith (chipIdCheck cs s) (chipIdCheck cs u) := by
  obtain ⟨d, r, c, ph, rfl⟩ := h
  exact ⟨rfl, _, r, _, ph, rfl⟩

theorem alike_verifyRegister (h : Alike s u) (reg written : Byte) (cs : Pin) :
    Alike (verifyRegister reg written cs s) (verifyRegister reg written cs u) := by
  obtain ⟨hv, hr⟩ := alike_readRegister h reg cs
  unfold verifyRegister
  simp only [hv]
  split
  · exact hr
  · exact hr.diagnose _

theorem alike_configStep (h : Alike s u) (reg val : Byte) (cs : Pin) :
    Alike (configStep reg val cs s) (configStep reg val cs u) :=
  alike_verifyRegister ((alike_writeRegister h reg val cs).delay _) reg val cs

theorem alike_configure (h : Alike s u) (delay rate : Byte) (cs : Pin) :
    Alike (configure delay rate cs s) (configure delay rate cs u) := by
  unfold configure
  rw [h.params_eq]
  induction configSteps s.params delay rate generalizing s u with
  | nil => exact h
  | cons step rest ih => exact ih (alike_configStep h step.1 step.2 cs)

theorem alike_initDevice (h : Alike s u) (rate : Byte) (cs : Pin) :
    Alike (initDevice rate cs s) (initDevice rate cs u) := by
  obtain ⟨-, hid⟩ := alike_chipIdCheck h cs
  have hstop := alike_stopConversions hid cs
  unfold initDevice
  simp only [hstop.params_eq]
  exact (alike_configure hstop _ rate cs).recordRate cs rate

theorem alike_selectChannel (h : Alike s u) (ch : Byte) (cs : Pin) :
    Alike (selectChannel ch cs s) (selectChannel ch cs u) := by
  unfold selectChannel
  rw [h.params_eq]
  split
  · exact alike_verifyRegister (alike_writeRegister h _ _ cs) _ _ cs
  · exact h

end

theorem alike_pollLoop (drdy : Pin) (rounds : Nat) :
    ∀ {s u : State}, Alike s u → Alike (pollLoop drdy rounds s) (pollLoop drdy rounds u) := by
  induction rounds with
  | zero => exact fun h => h
  | succ rounds ih =>
    intro s u h
    obtain ⟨hl, hr⟩ := alike_pinRead h drdy
    have hcount := hr.map (f := fun s => s.withEngine { s.engine with poll := s.engine.poll + 1 })
      fun _ _ _ _ _ => rfl
    simp only [pollLoop, hl]
    cases (s.pinRead drdy).1 with
    | low => exact hr
    | high =>
      simp only [hcount.params_eq, hcount.poll_eq]
      split
      · exact hcount.diagnose _
      · exact ih hcount

theorem alike_waitReady {s u : State} (h : Alike s u) (drdy : Pin) :
    Alike (waitReady drdy s) (waitReady drdy u) := by
  unfold waitReady
  rw [h.params_eq]
  exact alike_pollLoop drdy _ (h.map (f := fun s => s.withEngine { s.engine with poll := 0 })
    fun _ _ _ _ _ => rfl)

theorem alike_attemptRead {s u : State} (h : Alike s u) (cs : Pin) :
    AlikeWith (attemptRead cs s) (attemptRead cs u) := by
  obtain ⟨hf, hr⟩ := alike_framedRead (h.setPhase .reading) cs
  exact ⟨hf, hr.map (f := fun s => s.withEngine { s.engine with attempt := s.engine.attempt + 1 })
    fun _ _ _ _ _ => rfl⟩

theorem alike_retryLoop (ch : Byte) (cs drdy : Pin) (rounds : Nat) :
    ∀ {s u : State}, Alike s u →
      AlikeWith (retryLoop ch cs drdy rounds s) (retryLoop ch cs drdy rounds u) := by
  induction rounds with
  | zero => exact fun h => ⟨rfl, h⟩
  | succ rounds ih =>
    intro s u h
    obtain ⟨hf, hr⟩ := alike_attemptRead h cs
    simp only [retryLoop, hf, hr.attempt_eq]
    split
    · exact ⟨rfl, (hr.setPhase .valid).setPhase .idle⟩
    · have hfail := (hr.setPhase .retrying).diagnose (.chkFail cs ch (attemptRead cs s).2.engine.attempt
        (attemptRead cs s).1.value (attemptRead cs s).1.chk)
      rw [hfail.attempt_eq]
      split
      · exact ⟨rfl, ((hfail.setPhase .failed).diagnose _).setPhase .idle⟩
      · exact ih (alike_waitReady hfail drdy)

theorem alike_convertAndRead {s u : State} (h : Alike s u) (ch : Byte) (cs drdy : Pin) :
    AlikeWith (convertAndRead ch cs drdy s) (convertAndRead ch cs drdy u) := by
  have hstart := alike_startConversions (alike_selectChannel (h.setPhase .selecting) ch cs) cs
  have hwait := alike_waitReady ((hstart.setPhase .converting).setPhase .waitingReady) drdy
  exact alike_retryLoop ch cs drdy _
    (hwait.map (f := fun s => s.withEngine { s.engine with attempt := 0 })
      fun _ _ _ _ _ => rfl)

theorem alike_readChannel {s u : State} (h : Alike s u) (ch : Byte) (cs drdy : Pin) :
    AlikeWith (readChannel ch cs drdy s) (readChannel ch cs drdy u) := by
  have hstop := alike_stopConversions h cs
  unfold readChannel
  simp only
  split
  · exact alike_convertAndRead hstop ch cs drdy
  · exact ⟨rfl, hstop⟩

theorem alike_scanLoop (cs drdy : Pin) (list : List Byte) :
    ∀ {s u : State}, Alike s u → Alike (scanLoop cs drdy list s) (scanLoop cs drdy list u) := by
  induction list with
  | nil => exact fun h => h
  | cons ch rest ih =>
    intro s u h
    obtain ⟨hv, hr⟩ := alike_readChannel h ch cs drdy
    rw [scanLoop_cons, scanLoop_cons, hv]
    exact ih (hr.map (f := fun t => t.withEngine (t.engine.push (readChannel ch cs drdy s).1))
      fun _ _ _ _ _ => rfl)

theorem alike_readChannels {s u : State} (h : Alike s u) (list : List Byte) (cs drdy : Pin) :
    Alike (readChannels list cs drdy s) (readChannels list cs drdy u) :=
  alike_scanLoop cs drdy list (h.map (f := fun s => s.withEngine { s.engine with out := [], idx := 0 })
    fun _ _ _ _ _ => rfl)

/-- Two outcomes that are refusals for one reason, or next states alike. -/
inductive Agree : Host.Outcome State Fault Refusal → Host.Outcome State Fault Refusal → Prop
  | next {t u : State} (h : Alike t u) : Agree (.next t) (.next u)
  | refused (q : Refusal) : Agree (.refused q) (.refused q)

section

variable {s u : State} {o o' : Host.Outcome State Fault Refusal}

theorem Alike.finish (h : Alike s u) (r : Result) : Agree (s.finish r) (u.finish r) :=
  .next (h.map (f := (·.returning r)) fun _ _ _ _ _ => rfl)

/-- An operation that returns what its body computed. -/
theorem AlikeWith.finish {α : Type} {x y : α × State} (h : AlikeWith x y) (r : α → Result) :
    Agree (x.2.finish (r x.1)) (y.2.finish (r y.1)) := by
  obtain ⟨hv, ha⟩ := h
  rw [hv]
  exact ha.finish _

theorem Agree.whenLive (h : Alike s u) (k : Agree o o') : Agree (s.whenLive o) (u.whenLive o') := by
  simp only [State.whenLive, h.released_eq]
  split
  · exact .refused _
  · exact k

theorem Agree.whenSingleEnded (h : Alike s u) (k : Agree o o') :
    Agree (s.whenSingleEnded o) (u.whenSingleEnded o') := by
  simp only [State.whenSingleEnded, h.scanMode_eq]
  cases s.engine.scanMode with
  | singleEnded => exact k
  | differential => exact .refused _

theorem execSetmode_agree (mode : Byte) (h : Alike s u) :
    Agree (execSetmode mode s) (execSetmode mode u) := by
  refine .whenLive h ?_
  cases scanModeOf mode with
  | none => exact .refused _
  | some m =>
    exact (h.map (f := fun s => s.withEngine { s.engine with scanMode := m })
      fun _ _ _ _ _ => rfl).finish .none

theorem execRdchans_agree (list : List Byte) (cs drdy : Pin) (h : Alike s u) :
    Agree (execRdchans list cs drdy s) (execRdchans list cs drdy u) := by
  have hscan := alike_readChannels h list cs drdy
  have hfinish := hscan.finish (.words (readChannels list cs drdy s).engine.out)
  unfold execRdchans
  simp only [hscan.out_eq]
  refine .whenLive h ?_
  cases list with
  | nil => exact hfinish
  | cons ch rest => exact .whenSingleEnded h hfinish

theorem execShutdown_agree (h : Alike s u) : Agree (execShutdown s) (execShutdown u) :=
  .whenLive h ((h.map (f := fun s => s.withEngine { s.engine with released := true })
    fun _ _ _ _ _ => rfl).finish .none)

/-- Every operation: its guards look at none of the four fields, and its body keeps states alike. -/
theorem exec_agree (i : Instr) (h : Alike s u) : Agree (exec i s) (exec i u) := by
  cases i with
  | wcmd cmd cs => exact .whenLive h ((alike_writeCommand h cmd cs).finish _)
  | wreg reg data cs => exact .whenLive h ((alike_writeRegister h reg data cs).finish _)
  | rreg reg cs => exact .whenLive h ((alike_readRegister h reg cs).finish .byte)
  | chksum value rx => exact .whenLive h (h.finish _)
  | waitrdy drdy => exact .whenLive h ((alike_waitReady h drdy).finish _)
  | chipid cs => exact .whenLive h ((alike_chipIdCheck h cs).finish .byte)
  | config delay rate cs => exact .whenLive h ((alike_configure h delay rate cs).finish _)
  | init rate cs => exact .whenLive h ((alike_initDevice h rate cs).finish _)
  | setmode mode => exact execSetmode_agree mode h
  | selch ch cs => exact .whenLive h ((alike_selectChannel h ch cs).finish _)
  | framerd cs =>
    exact .whenLive h ((alike_framedRead h cs).finish fun f => .frame f.status f.value f.chk)
  | rdchan ch cs drdy =>
    exact .whenLive h (.whenSingleEnded h ((alike_readChannel h ch cs drdy).finish .word))
  | rdchans list cs drdy => exact execRdchans_agree list cs drdy h
  | resetdev rst => exact .whenLive h ((alike_resetPulse h rst).finish _)
  | shutdown => exact execShutdown_agree h
  | reserved id => exact .whenLive h (.refused _)
  | wireCmd cmd cs => exact .whenLive h ((alike_writeCommand h cmd cs).finish _)
  | stop cs => exact .whenLive h ((alike_stopConversions h cs).finish _)
  | start cs => exact .whenLive h ((alike_startConversions h cs).finish _)
  | wireWreg reg data cs => exact .whenLive h ((alike_writeRegister h reg data cs).finish _)
  | wireRreg reg cs => exact .whenLive h ((alike_readRegister h reg cs).finish .byte)
  | wireFrame cs =>
    exact .whenLive h ((alike_framedRead h cs).finish fun f => .frame f.status f.value f.chk)

end

/-- Settles O50: states that differ in the four fields are alike, and so their outcomes agree. -/
theorem recordFieldsNeverInfluence : Obligations.RecordFieldsNeverInfluence := by
  intro i s d r c ph
  have hagree := exec_agree (s := s) i ⟨d, r, c, ph, rfl⟩
  constructor
  · intro q hq
    rw [hq] at hagree
    generalize hu : exec i (s.withRecord d r c ph) = o at hagree
    cases hagree
    exact hu
  · intro t ht
    rw [ht] at hagree
    generalize hu : exec i (s.withRecord d r c ph) = o at hagree
    cases hagree with
    | next halike =>
      obtain ⟨d', r', c', ph', rfl⟩ := halike
      exact ⟨_, hu, rfl⟩

/-! ### The state after reset -/

/-- Settles O10: the fields as `State.resetWith` writes them; with no input presented the engine waits. -/
theorem resetLeavesTableSValues : Obligations.ResetLeavesTableSValues := by
  refine ⟨rfl, ?_⟩
  rintro p evs rfl
  exact ⟨rfl, rfl, rfl, rfl, rfl, rfl, rfl, rfl, rfl, rfl, rfl, rfl⟩

/-- Settles O59: the bring-up is orderly, and the tables and counters start empty. -/
theorem resetMeetsInvariants : Obligations.ResetMeetsInvariants := by
  intro p
  have hbringUp : Orderly p [] (bringUpEvents p.pinmap) := .bringUp p.pinmap
  have hhigh : (State.resetWith p).pins.AllHigh := hbringUp.keeps_allHigh _ fun _ => nofun
  obtain ⟨hdir, hout⟩ : (State.resetWith p).pins.Canonical := Pins.Canonical.applyAll _ _ ⟨rfl, rfl⟩
  exact ⟨⟨rfl, rfl⟩, hbringUp.framed, ⟨rfl, rfl, hdir, hout, trivial⟩,
    ⟨Nat.zero_le _, Nat.zero_le _, rfl⟩, hhigh⟩

/-! ### The line held inside a transaction -/

/-- Transfers leave the engine record as it is. -/
theorem sendAll_engine (bytes : List Byte) : ∀ s : State, (sendAll bytes s).engine = s.engine := by
  induction bytes with
  | nil => exact fun _ => rfl
  | cons b rest ih => exact fun s => ih (s.xfer b).2

/-- Settles O60: each transaction is written out as the assertion, the transfers and the release. -/
theorem csHeldNamesTheLineOfItsWindow : Obligations.CsHeldNamesTheLineOfItsWindow := by
  intro cs s
  exact ⟨rfl, rfl, fun _ => rfl, fun bytes => sendAll_engine bytes _, rfl, rfl, fun _ => rfl,
    fun _ _ => rfl, fun _ => rfl, rfl⟩

end Sys2Proof.Machine

/-! PROOFS of the family 20_memory.md: the byte order of the sample frame (R54). -/

namespace Sys2Proof.Machine

/-- The answers a script gives to the transfers of one frame window are its next six bytes, in order. -/
theorem Env.eq_of_scripted_answers_frameEvents {p : Params} {n : Nat} {cs : Pin} {f g : Frame}
    {bytes : List Byte} {levels : List Level}
    (h : (Env.scripted (f.bytes ++ bytes) levels).Answers p n (frameEvents cs g)) : g = f := by
  cases f
  cases g
  obtain ⟨rfl, rfl, rfl, rfl, rfl, rfl, -⟩ := h
  rfl

/-- A framed read from a script returns the frame whose bytes stand first in it, and uses them up (R161). -/
theorem framedRead_of_scripted {f : Frame} {bytes : List Byte} {levels : List Level} {s : State} (cs : Pin)
    (h : s.env = .scripted (f.bytes ++ bytes) levels) :
    (framedRead cs s).1 = f ∧ (framedRead cs s).2.env = .scripted bytes levels := by
  have hran := (framedRead_performed cs s).ran
  have hanswers := hran.answers
  have henv := hran.env
  rw [h] at hanswers henv
  exact ⟨Env.eq_of_scripted_answers_frameEvents hanswers, henv⟩

/-- A live FRAMERD ends with the six bytes of its framed read as its result (R161). -/
theorem exec_framerd_of_live {s : State} (cs : Pin) (h : s.engine.released = false) :
    exec (.framerd cs) s = .next ((framedRead cs s).2.returning
      (.frame (framedRead cs s).1.status (framedRead cs s).1.value (framedRead cs s).1.chk)) :=
  whenLive_of_live h

/-- Settles O36: the frame read is the script's, and its value is the assembly of the four data bytes. -/
theorem sampleIsBigEndian : Obligations.SampleIsBigEndian := by
  intro cs st d3 d2 d1 d0 ck bytes levels s hlive henv
  have hexec := exec_framerd_of_live cs hlive
  rw [(framedRead_of_scripted (f := ⟨st, d3, d2, d1, d0, ck⟩) cs henv).1] at hexec
  exact ⟨assembleSample d3 d2 d1 d0, _, hexec, rfl, assembleSample_eq_append d3 d2 d1 d0,
    assembleSample_byte3 d3 d2 d1 d0, assembleSample_byte2 d3 d2 d1 d0, assembleSample_byte1 d3 d2 d1 d0,
    assembleSample_byte0 d3 d2 d1 d0⟩

end Sys2Proof.Machine

/-! PROOFS of the family 30_encoding.md: requests and their decoding (R88 to R90), the rows of the wire layer and
what they perform (R82 to R86, R93, R95), the mux byte and the sample (R87), the passes of SCANDEVS (R95), the
length of a result (R89), and the first bytes of the engine's own transactions (R92). -/

namespace Sys2Proof

/-! ### The operands of a request (R88, R89) -/

section

variable {t rest : List Byte} {i : Instr}

theorem take1_eq_request {k : Byte → Instr} (h : take1 k t = .request i rest) :
    ∃ a, i = k a ∧ t = a :: rest := by
  unfold take1 at h
  split at h <;> cases h
  exact ⟨_, rfl, rfl⟩

theorem take2_eq_request {k : Byte → Byte → Instr} (h : take2 k t = .request i rest) :
    ∃ a b, i = k a b ∧ t = a :: b :: rest := by
  unfold take2 at h
  split at h <;> cases h
  exact ⟨_, _, rfl, rfl⟩

theorem take3_eq_request {k : Byte → Byte → Byte → Instr} (h : take3 k t = .request i rest) :
    ∃ a b c, i = k a b c ∧ t = a :: b :: c :: rest := by
  unfold take3 at h
  split at h <;> cases h
  exact ⟨_, _, _, rfl, rfl⟩

theorem takeValue_eq_request {k : Word → Byte → Instr} (h : takeValue k t = .request i rest) :
    ∃ v x, i = k v x ∧ t = bytesOfWord v ++ x :: rest := by
  unfold takeValue at h
  split at h <;> cases h
  exact ⟨_, _, rfl, by rw [bytesOfWord_wordOfBytes]; rfl⟩

theorem takeList_eq_request (h : takeList t = .request i rest) :
    ∃ list cs drdy, i = .rdchans list cs drdy ∧ list.length ≤ 255 ∧
      t = cs :: drdy :: BitVec.ofNat 8 list.length :: (list ++ rest) := by
  unfold takeList at h
  split at h
  case h_2 => cases h
  case h_1 cs drdy n u =>
    split at h <;> cases h
    next hn =>
      have hlen : (u.take n.toNat).length = n.toNat := List.length_take_of_le hn
      refine ⟨u.take n.toNat, cs, drdy, rfl, ?_, ?_⟩
      · rw [hlen]
        exact Nat.le_of_lt_succ n.isLt
      · rw [hlen, BitVec.ofNat_toNat, BitVec.setWidth_eq, List.take_append_drop]

/-- The operands of RDCHANS as the request writes them are read back (R88). -/
theorem takeList_of_length {list : List Byte} (h : list.length ≤ 255) (cs drdy : Pin) (rest : List Byte) :
    takeList (cs :: drdy :: BitVec.ofNat 8 list.length :: (list ++ rest)) =
      .request (.rdchans list cs drdy) rest := by
  have hn : (BitVec.ofNat 8 list.length).toNat = list.length :=
    (BitVec.toNat_ofNat _ _).trans (Nat.mod_eq_of_lt (Nat.lt_succ_of_le h))
  simp [takeList, hn]

end

/-! ### The operations a request decodes to (R89, R90) -/

/-- The operations whose encoding is a request of the table: those of the host layer with a channel list that
fits the count byte (R88) and a reserved id the table leaves free (R90). A mode byte above 1 is among them
(log entry 12). -/
def Instr.Requestable : Instr → Prop
  | .rdchans list _ _ => list.length ≤ 255
  | .reserved id => id.toNat = 0 ∨ 16 ≤ id.toNat
  | i => i.layer = .host

theorem Instr.Requestable.layer {i : Instr} (h : i.Requestable) : i.layer = .host := by
  cases i
  case rdchans => rfl
  case reserved => rfl
  all_goals exact h

theorem Instr.requestable_of_wellFormed {p : Params} {i : Instr} (hlayer : i.layer = .host)
    (hwf : i.wellFormed p = true) : i.Requestable := by
  cases i
  case rdchans list cs drdy => simpa [Instr.wellFormed, Instr.Requestable] using hwf
  case reserved id => simpa [Instr.wellFormed, Instr.Requestable] using hwf
  all_goals exact hlayer

/-- A free id has no row in the table of R89: it is a request of its own (R90; log entry 11). -/
theorem decodeOperands_reserved {id : Byte} (h : id.toNat = 0 ∨ 16 ≤ id.toNat) (t : List Byte) :
    decodeOperands id t = .request (.reserved id) t := by
  unfold decodeOperands
  split
  case h_16 => rfl
  all_goals omega

/-- The request of an operation, whatever follows it, decodes to the operation. -/
theorem decode_encode_append (p : Params) {i : Instr} (h : i.Requestable) (rest : List Byte) :
    decode (encode p i ++ rest) = .request i rest := by
  cases i with
  | rdchans list cs drdy => exact takeList_of_length h cs drdy rest
  | reserved id => exact decodeOperands_reserved h rest
  | chksum value rx =>
    exact congrArg (fun v => Decoded.request (.chksum v rx) rest) (wordOfBytes_bytesOfWord value)
  | wireCmd | stop | start | wireWreg | wireRreg | wireFrame => cases h
  | _ => rfl

/-- A byte read as the id of a row of the table is that row's id byte. -/
theorem cons_eq_of_toNat_eq {id : Byte} {n : Nat} (h : id.toNat = n) (t : List Byte) :
    BitVec.ofNat 8 n :: t = id :: t := by
  rw [← h, BitVec.ofNat_toNat, BitVec.setWidth_eq]

/-- Bytes that decode to an operation begin with the operation's request: the rows of R89 by the shape of their
operands. -/
theorem encode_of_decodeOperands (p : Params) {id : Byte} {t rest : List Byte} {i : Instr}
    (h : decodeOperands id t = .request i rest) :
    i.Requestable ∧ encode p i ++ rest = id :: t := by
  unfold decodeOperands at h
  split at h
  case h_5 hid | h_6 hid | h_9 hid | h_11 hid | h_14 hid =>
    obtain ⟨a, rfl, rfl⟩ := take1_eq_request h
    exact ⟨rfl, cons_eq_of_toNat_eq hid _⟩
  case h_1 hid | h_3 hid | h_8 hid | h_10 hid =>
    obtain ⟨a, b, rfl, rfl⟩ := take2_eq_request h
    exact ⟨rfl, cons_eq_of_toNat_eq hid _⟩
  case h_2 hid | h_7 hid | h_12 hid =>
    obtain ⟨a, b, c, rfl, rfl⟩ := take3_eq_request h
    exact ⟨rfl, cons_eq_of_toNat_eq hid _⟩
  case h_4 hid =>
    obtain ⟨v, x, rfl, rfl⟩ := takeValue_eq_request h
    exact ⟨rfl, cons_eq_of_toNat_eq hid _⟩
  case h_13 hid =>
    obtain ⟨list, cs, drdy, rfl, hlen, rfl⟩ := takeList_eq_request h
    exact ⟨hlen, cons_eq_of_toNat_eq hid _⟩
  case h_15 hid =>
    cases h
    exact ⟨rfl, cons_eq_of_toNat_eq hid _⟩
  case h_16 =>
    cases h
    refine ⟨?_, rfl⟩
    simp only [imp_false] at *
    simp only [Instr.Requestable]
    omega

theorem decode_eq_request_iff (p : Params) {bytes rest : List Byte} {i : Instr} :
    decode bytes = .request i rest ↔ i.Requestable ∧ encode p i ++ rest = bytes := by
  constructor
  · intro h
    cases bytes with
    | nil => cases h
    | cons id t => exact encode_of_decodeOperands p h
  · rintro ⟨hi, rfl⟩
    exact decode_encode_append p hi rest

/-- Bytes that begin with a request still do with more bytes after them. -/
theorem decode_append {bytes rest : List Byte} {i : Instr} (h : decode bytes = .request i rest)
    (more : List Byte) : decode (bytes ++ more) = .request i (rest ++ more) := by
  obtain ⟨hi, rfl⟩ := (decode_eq_request_iff .p0).1 h
  rw [List.append_assoc]
  exact decode_encode_append .p0 hi _

/-- Settles O1: a well-formed host operation has a request, which decodes to it. -/
theorem decodeOfEncodeHost : Obligations.DecodeOfEncodeHost :=
  fun p _ rest hlayer hwf => decode_encode_append p (Instr.requestable_of_wellFormed hlayer hwf) rest

/-- Settles O2: what decodes to an operation is its request, which only host operations have. -/
theorem encodeOfDecodeHost : Obligations.EncodeOfDecodeHost := by
  intro p bytes i rest h
  obtain ⟨hi, hbytes⟩ := (decode_eq_request_iff p).1 h
  exact ⟨hi.layer, hbytes⟩

/-- Settles O4: a request within the beginning would also be what the whole decodes to, with the bytes cut off
unread after it, where the whole leaves none. -/
theorem truncatedRequestIsIncomplete : Obligations.TruncatedRequestIsIncomplete := by
  intro p i n hlayer hwf hn
  cases h : decode ((encode p i).take n) with
  | incomplete => rfl
  | request j rest =>
    have hpart := decode_append h ((encode p i).drop n)
    have hwhole := decode_encode_append p (Instr.requestable_of_wellFormed hlayer hwf) []
    rw [List.append_nil] at hwhole
    rw [List.take_append_drop, hwhole, Decoded.request.injEq] at hpart
    obtain ⟨-, hrest⟩ := hpart
    have hdrop : (encode p i).drop n = [] := (List.append_eq_nil_iff.1 hrest.symm).2
    exact absurd (List.drop_eq_nil_iff.1 hdrop) (Nat.not_le.2 hn)

/-! ### The row a window is (R93) -/

/-- A byte with no bit outside a mask is its own masked part. -/
theorem and_mask_eq_self {b m : Byte} (h : b &&& ~~~m = 0#8) : b &&& m = b := by
  ext i hi
  have hbit : (b &&& ~~~m)[i] = false := by rw [h]; exact BitVec.getElem_zero hi
  simpa using hbit

/-- A first byte made of an opcode pattern and a register address is taken apart by the mask (R86, R93). -/
theorem opcode_or_reg_masked {op reg m : Byte} (hop : op &&& ~~~m = 0#8) (hreg : reg &&& m = 0#8) :
    (op ||| reg) &&& m = op ∧ (op ||| reg) &&& ~~~m = reg := by
  have hreg' : reg &&& ~~~m = reg := and_mask_eq_self (by rwa [BitVec.not_not])
  rw [BitVec.and_or_distrib_right, BitVec.and_or_distrib_right, and_mask_eq_self hop, hreg, hop, hreg']
  exact ⟨BitVec.or_zero, BitVec.zero_or⟩

/-- R93: the window of a well-formed row of the wire layer is that row's. -/
theorem decodeWire_encode {p : Params} {cs : Pin} {i : Instr} (hp : p.WireWF) (hcs : i.wirePin = some cs)
    (hwf : i.wellFormed p = true) : decodeWire p cs (encode p i) = some i := by
  obtain ⟨hwreg, hrreg, hne⟩ := hp
  cases i <;> cases hcs
  case wireCmd cmd =>
    obtain ⟨hstop, hstart⟩ : cmd ≠ p.cmdStop ∧ cmd ≠ p.cmdStart := by simpa [Instr.wellFormed] using hwf
    simp [decodeWire, encode, hstop, hstart]
  case stop => simp [decodeWire, encode]
  case start =>
    have hdiffer : p.cmdStart ≠ p.cmdStop := by simpa [Instr.wellFormed] using hwf
    simp [decodeWire, encode, hdiffer]
  case wireWreg reg data =>
    have hreg : reg &&& p.classMask = 0#8 := by simpa [Instr.wellFormed] using hwf
    obtain ⟨hclass, haddr⟩ := opcode_or_reg_masked hwreg hreg
    simp [decodeWire, encode, hclass, haddr]
  case wireRreg reg =>
    have hreg : reg &&& p.classMask = 0#8 := by simpa [Instr.wellFormed] using hwf
    obtain ⟨hclass, haddr⟩ := opcode_or_reg_masked hrreg hreg
    simp [decodeWire, encode, hclass, haddr, hne.symm]
  case wireFrame => simp [decodeWire, encode]

/-- Settles O3: each row's window, its first byte taken apart by the mask where it is a register frame's. -/
theorem decodeOfEncodeWire : Obligations.DecodeOfEncodeWire :=
  fun _ _ _ hp hcs hwf => decodeWire_encode hp hcs hwf

/-- Settles O5: the decoders run on the spec's words. -/
theorem specWordsDecode : Obligations.SpecWordsDecode := by
  unfold Obligations.SpecWordsDecode
  decide

end Sys2Proof

namespace Sys2Proof.Machine

/-! ### The steps that take what is presented -/

/-- The fetch with a wire window presented that is some row's. -/
theorem State.fetch_of_window {s : State} {cs : Pin} {sent : List Byte} {i : Instr}
    (hreset : s.resetIn = false) (hwire : s.wireIn = some (cs, sent))
    (hrow : decodeWire s.params cs sent = some i) : s.fetch = .run i { s with wireIn := none } := by
  simp [State.fetch, hreset, hwire, hrow]

/-- The fetch with a wire window presented that is no row's. -/
theorem State.fetch_of_noWireRow {s : State} {cs : Pin} {sent : List Byte} (hreset : s.resetIn = false)
    (hwire : s.wireIn = some (cs, sent)) (hrow : decodeWire s.params cs sent = none) :
    s.fetch = .noWireRow := by
  simp [State.fetch, hreset, hwire, hrow]

/-- The fetch with neither reset, a wire window nor a whole request presented. -/
theorem State.fetch_of_incomplete {s : State} (hreset : s.resetIn = false) (hwire : s.wireIn = none)
    (hreq : decode s.hostIn = .incomplete) : s.fetch = .wait := by
  simp [State.fetch, hreset, hwire, hreq]

/-- Settles O7: the step runs the row the window is fetched as, or refuses it. -/
theorem stepRunsPresentedWindow : Obligations.StepRunsPresentedWindow := by
  intro s cs sent hreset hwire
  constructor
  · intro i hrow
    rw [step, State.fetch_of_window hreset hwire hrow]
  · intro hrow
    rw [step, State.fetch_of_noWireRow hreset hwire hrow]

/-- Settles O8: nothing whole is fetched. -/
theorem stepWaitsForWholeRequest : Obligations.StepWaitsForWholeRequest := by
  intro s hreset hwire hreq
  rw [step, State.fetch_of_incomplete hreset hwire hreq]

/-- Settles O47: the id byte is a request of its own, and its operation a refusal. -/
theorem reservedIdsAreRefused : Obligations.ReservedIdsAreRefused := by
  intro id rest s hid hlive hreset hwire hhost
  have hreq : decode s.hostIn = .request (.reserved id) rest := by
    rw [hhost]
    exact decodeOperands_reserved hid rest
  refine ⟨whenLive_of_live hlive, ?_⟩
  rw [step, State.fetch_of_request hreset hwire hreq]
  exact whenLive_of_live hlive

/-! ### What the wire rows perform (R82 to R85, R95) -/

section

variable {s : State} (h : s.engine.released = false)
include h

theorem exec_wireCmd_performed (cmd : Byte) (cs : Pin) :
    ∃ (r0 : Byte) (t : State), exec (.wireCmd cmd cs) s = .next t ∧
      Performed s t (windowEvents cs [(cmd, r0)]) { s.engine with csHeld := none } .none := by
  obtain ⟨r0, hrun⟩ := writeCommand_performed cmd cs s
  exact ⟨r0, _, whenLive_of_live h, hrun.finish .none⟩

theorem exec_stop_performed (cs : Pin) :
    ∃ (r0 : Byte) (t : State), exec (.stop cs) s = .next t ∧
      Performed s t (windowEvents cs [(s.params.cmdStop, r0)]) { s.engine with csHeld := none } .none :=
  exec_wireCmd_performed h s.params.cmdStop cs

theorem exec_start_performed (cs : Pin) :
    ∃ (r0 : Byte) (t : State), exec (.start cs) s = .next t ∧
      Performed s t (windowEvents cs [(s.params.cmdStart, r0)]) { s.engine with csHeld := none } .none :=
  exec_wireCmd_performed h s.params.cmdStart cs

theorem exec_wireWreg_performed (reg data : Byte) (cs : Pin) :
    ∃ (r0 r1 r2 : Byte) (t : State), exec (.wireWreg reg data cs) s = .next t ∧
      Performed s t (writeEvents s.params cs reg data r0 r1 r2) { s.engine with csHeld := none } .none := by
  obtain ⟨r0, r1, r2, hrun⟩ := writeRegister_performed reg data cs s
  exact ⟨r0, r1, r2, _, whenLive_of_live h, hrun.finish .none⟩

theorem exec_wireRreg_performed (reg : Byte) (cs : Pin) :
    ∃ (r0 r1 v : Byte) (t : State), exec (.wireRreg reg cs) s = .next t ∧
      Performed s t (readEvents s.params cs reg r0 r1 v) { s.engine with csHeld := none } (.byte v) := by
  obtain ⟨r0, r1, hrun⟩ := readRegister_performed reg cs s
  exact ⟨r0, r1, _, _, whenLive_of_live h, hrun.finish (.byte _)⟩

theorem exec_wireFrame_performed (cs : Pin) :
    ∃ (f : Frame) (t : State), exec (.wireFrame cs) s = .next t ∧
      Performed s t (frameEvents cs f) { s.engine with csHeld := none, frame := some f }
        (.frame f.status f.value f.chk) :=
  ⟨_, _, whenLive_of_live h, (framedRead_performed cs s).finish (.frame _ _ _)⟩

end

/-- Settles O15: the three command rows are the command window. -/
theorem wireCommandRowsPerformTheirWindow : Obligations.WireCommandRowsPerformTheirWindow :=
  fun cmd cs _ hlive =>
    ⟨exec_wireCmd_performed hlive cmd cs, exec_stop_performed hlive cs, exec_start_performed hlive cs⟩

/-! ### Decoding a trace back (R93) -/

/-- Transfers in an open window are added to it. -/
theorem cutWindows_transfers (cs : Pin) (xs : List (Byte × Byte)) (rest : List Event) :
    ∀ sent, cutWindows (some { cs := cs, bytes := sent }) ((xs.map fun x => .xfer x.1 x.2) ++ rest) =
      cutWindows (some { cs := cs, bytes := sent ++ xs }) rest := by
  induction xs with
  | nil => intro sent; rw [List.append_nil]; rfl
  | cons x xs ih =>
    intro sent
    rw [List.append_cons]
    exact ih _

/-- The events of a window with a transfer in it are one transaction, before those of the events after it. -/
theorem transactions_windowEvents_append (cs : Pin) (x : Byte × Byte) (xs : List (Byte × Byte))
    (rest : List Event) : transactions (windowEvents cs (x :: xs) ++ rest) =
      { cs := cs, bytes := x :: xs } :: transactions rest := by
  have hcut := cutWindows_transfers cs (x :: xs) (.wr cs .high :: rest) []
  simpa [windowEvents, transactions, cutWindows] using hcut

/-- The events of a window that is some row's decode to that row and the result the window carries. -/
theorem decodeTrace_windowEvents {p : Params} {cs : Pin} {xs : List (Byte × Byte)} {i : Instr}
    (h : decodeWire p cs (xs.map Prod.fst) = some i) :
    decodeTrace p (windowEvents cs xs) = [some (i, ({ cs := cs, bytes := xs } : Window).result i)] := by
  cases xs with
  | nil => cases h
  | cons x xs =>
    have hone := transactions_windowEvents_append cs x xs []
    rw [List.append_nil] at hone
    rw [decodeTrace, hone]
    exact congrArg (fun o => [Option.map _ o]) h

/-- The operation returns, and what it adds to the trace decodes back to it and its result (R93). -/
def DecodesBack (i : Instr) (s : State) : Prop :=
  ∃ (t : State) (evs : List Event), exec i s = .next t ∧ t.trace = s.trace ++ evs ∧
    decodeTrace s.params evs = [some (i, t.result)]

/-- A row that performs the window of its encoding, and returns the result that window carries, is decoded
back from its trace. -/
theorem Performed.decodesBack {i : Instr} {cs : Pin} {s t : State} {xs : List (Byte × Byte)} {e : Engine}
    {r : Result} (h : Performed s t (windowEvents cs xs) e r) (hexec : exec i s = .next t)
    (hrow : decodeWire s.params cs (xs.map Prod.fst) = some i)
    (hresult : r = ({ cs := cs, bytes := xs } : Window).result i) : DecodesBack i s :=
  ⟨t, _, hexec, h.ran.trace, by rw [decodeTrace_windowEvents hrow, h.result, hresult]⟩

/-- R93: every well-formed row of the wire layer is decoded back from its trace. -/
theorem decodesBack_of_wellFormed {i : Instr} {cs : Pin} {s : State} (hlive : s.engine.released = false)
    (hp : s.params.WireWF) (hcs : i.wirePin = some cs) (hwf : i.wellFormed s.params = true) :
    DecodesBack i s := by
  have hrow := decodeWire_encode hp hcs hwf
  cases i <;> cases hcs
  case wireCmd cmd =>
    obtain ⟨r0, t, hexec, h⟩ := exec_wireCmd_performed hlive cmd cs
    exact h.decodesBack hexec hrow rfl
  case stop =>
    obtain ⟨r0, t, hexec, h⟩ := exec_stop_performed hlive cs
    exact h.decodesBack hexec hrow rfl
  case start =>
    obtain ⟨r0, t, hexec, h⟩ := exec_start_performed hlive cs
    exact h.decodesBack hexec hrow rfl
  case wireWreg reg data =>
    obtain ⟨r0, r1, r2, t, hexec, h⟩ := exec_wireWreg_performed hlive reg data cs
    exact h.decodesBack hexec hrow rfl
  case wireRreg reg =>
    obtain ⟨r0, r1, v, t, hexec, h⟩ := exec_wireRreg_performed hlive reg cs
    exact h.decodesBack hexec hrow rfl
  case wireFrame =>
    obtain ⟨f, t, hexec, h⟩ := exec_wireFrame_performed hlive cs
    exact h.decodesBack hexec hrow rfl

/-- Settles O16: the windows the three rows perform, and the decoding of any wire row's trace. -/
theorem wireFrameRowsPerformTheirWindow : Obligations.WireFrameRowsPerformTheirWindow := by
  refine ⟨fun reg data cs s hlive => ⟨exec_wireWreg_performed hlive reg data cs,
    exec_wireRreg_performed hlive reg cs, ?_⟩, fun i cs s => decodesBack_of_wellFormed⟩
  obtain ⟨f, t, hexec, h⟩ := exec_wireFrame_performed hlive cs
  rw [Frame.value, assembleSample_eq_append] at h
  exact ⟨f, t, hexec, h⟩

/-! ### The mux byte and the sample (R87) -/

theorem muxByte_high_nibble (ch : Byte) : (muxByte ch).extractLsb' 4 4 = ch.extractLsb' 0 4 := by
  ext i hi
  interval_cases i <;> simp [muxByte, Config.muxnCommon]

theorem muxByte_low_nibble (ch : Byte) : (muxByte ch).extractLsb' 0 4 = 0xA := by
  ext i hi
  interval_cases i <;> simp [muxByte, Config.muxnCommon]

/-- A byte joined below a value is added to the value moved up. -/
theorem toNat_append_byte {n : Nat} (x : BitVec n) (b : Byte) : (x ++ b).toNat = x.toNat * 2 ^ 8 + b.toNat := by
  rw [BitVec.toNat_append, ← Nat.shiftLeft_add_eq_or_of_lt b.isLt, Nat.shiftLeft_eq]

theorem assembleSample_toNat (d3 d2 d1 d0 : Byte) : (assembleSample d3 d2 d1 d0).toNat =
    d3.toNat * 2 ^ 24 + d2.toNat * 2 ^ 16 + d1.toNat * 2 ^ 8 + d0.toNat := by
  rw [assembleSample_eq_append, toNat_append_byte, toNat_append_byte, toNat_append_byte]
  omega

/-- A channel selection begins with the write of the mux byte (R87, R160). -/
theorem selectEvents_eq_append (p : Params) (cs : Pin) (ch : Byte) (a : WriteBack) :
    ∃ evs, selectEvents p cs ch a =
      writeEvents p cs p.regInpmux (muxByte ch) a.w0 a.w1 a.w2 ++ evs :=
  ⟨_, List.append_assoc _ _ _⟩

/-- Settles O34: the nibbles bit by bit, the sample as bytes joined, and the write that SELCH begins with. -/
theorem muxByteAndSampleAssembly : Obligations.MuxByteAndSampleAssembly := by
  refine ⟨fun ch _ => ⟨muxByte_high_nibble ch, muxByte_low_nibble ch⟩, by decide, ?_, assembleSample_toNat⟩
  intro ch cs s hlive hch
  obtain ⟨a, h⟩ := selectChannel_performed cs s (decide_eq_true hch)
  obtain ⟨evs, hevs⟩ := selectEvents_eq_append s.params cs ch a
  refine ⟨a.w0, a.w1, a.w2, evs, _, whenLive_of_live hlive, ?_⟩
  rw [State.returning_trace, h.ran.trace, hevs, List.append_assoc]

/-! ### SCANDEVS (R95, R181) -/

/-- Neither released nor in differential mode: no channel read is refused. -/
def State.CanRead (s : State) : Prop := s.engine.released = false ∧ s.engine.scanMode = .singleEnded

/-- One pass: RDCHANS returns the values it leaves in `E.out`, and channels can be read after it. -/
theorem execRdchans_of_canRead {s : State} (h : s.CanRead) (list : List Byte) (cs drdy : Pin) :
    ∃ t : State, execRdchans list cs drdy s = .next t ∧ t.result = .words t.engine.out ∧ t.CanRead := by
  obtain ⟨hlive, hmode⟩ := h
  obtain ⟨vs, evs, -, -, -, heng, -⟩ :=
    scanLoop_changes cs drdy list (s.withEngine { s.engine with out := [], idx := 0 })
  refine ⟨(readChannels list cs drdy s).returning (.words (readChannels list cs drdy s).engine.out),
    ?_, rfl, ?_⟩
  · refine (whenLive_of_live hlive).trans ?_
    cases list with
    | nil => rfl
    | cons ch rest => exact whenSingleEnded_of hmode
  · rw [State.CanRead, State.returning_engine, readChannels, heng]
    exact ⟨hlive, hmode⟩

/-- The passes over a list that begins with a device: its pass, then those of the others from there. -/
theorem scanDevices_cons_eq_next_iff {list : List Byte} {cs drdy : Pin} {rest : List (Pin × Pin)}
    {s u : State} {vss : List (List Word)} :
    scanDevices list ((cs, drdy) :: rest) s = .next (vss, u) ↔
      ∃ t wss, execRdchans list cs drdy s = .next t ∧ scanDevices list rest t = .next (wss, u) ∧
        vss = t.engine.out :: wss := by
  constructor
  · intro h
    rw [scanDevices] at h
    split at h
    case h_1 | h_2 => cases h
    case h_3 t hpass =>
      split at h
      case h_1 | h_2 => cases h
      case h_3 wss v hrest =>
        cases h
        exact ⟨t, wss, hpass, hrest, rfl⟩
  · rintro ⟨t, wss, hpass, hrest, rfl⟩
    simp only [scanDevices, hpass, hrest]

/-- Every list of devices is passed over, with one sequence of values for each device. -/
theorem scanDevices_of_canRead (list : List Byte) (devs : List (Pin × Pin)) :
    ∀ s : State, s.CanRead → ∃ (vss : List (List Word)) (t : State),
      scanDevices list devs s = .next (vss, t) ∧ vss.length = devs.length ∧ t.CanRead := by
  induction devs with
  | nil => exact fun s h => ⟨[], s, rfl, rfl, h⟩
  | cons dev rest ih =>
    intro s h
    obtain ⟨t, hpass, -, ht⟩ := execRdchans_of_canRead h list dev.1 dev.2
    obtain ⟨vss, u, hrest, hlen, hu⟩ := ih t ht
    exact ⟨_, u, scanDevices_cons_eq_next_iff.2 ⟨t, vss, hpass, hrest, rfl⟩, congrArg (· + 1) hlen, hu⟩

/-- The passes over two lists of devices, one after the other, are those over the joined list. -/
theorem scanDevices_append {list : List Byte} {more : List (Pin × Pin)} {t u : State}
    {wss : List (List Word)} (hmore : scanDevices list more t = .next (wss, u)) (devs : List (Pin × Pin)) :
    ∀ (s : State) (vss : List (List Word)), scanDevices list devs s = .next (vss, t) →
      scanDevices list (devs ++ more) s = .next (vss ++ wss, u) := by
  induction devs with
  | nil =>
    rintro s vss h
    cases h
    exact hmore
  | cons dev rest ih =>
    intro s vss h
    obtain ⟨t1, vss1, hpass, hrest, rfl⟩ := scanDevices_cons_eq_next_iff.1 h
    exact scanDevices_cons_eq_next_iff.2 ⟨t1, _, hpass, ih t1 vss1 hrest, rfl⟩

/-- Settles O45: a pass is an RDCHANS, and passes are made one after the other. -/
theorem scandevsVisitsDevicesInOrder : Obligations.ScandevsVisitsDevicesInOrder := by
  intro list devs more cs drdy s hlive hmode
  have hs : s.CanRead := ⟨hlive, hmode⟩
  constructor
  · obtain ⟨t, hpass, hresult, -⟩ := execRdchans_of_canRead hs list cs drdy
    exact ⟨t.engine.out, t, hpass, hresult, scanDevices_cons_eq_next_iff.2 ⟨t, [], hpass, rfl, rfl⟩⟩
  · obtain ⟨vss, t, hdevs, hlen, ht⟩ := scanDevices_of_canRead list devs s hs
    obtain ⟨wss, u, hmore, -, -⟩ := scanDevices_of_canRead list more t ht
    exact ⟨vss, wss, t, u, hdevs, hmore, scanDevices_append hmore devs s vss hdevs, hlen⟩

/-! ### The length of a result (R88, R89) -/

/-- A sequence of samples goes back in four bytes each. -/
theorem Result.length_toBytes_words (vs : List Word) : (Result.words vs).toBytes.length = 4 * vs.length := by
  simp [Result.toBytes, List.length_flatMap, Nat.mul_comm]

theorem readChannels_out_length (list : List Byte) (cs drdy : Pin) (s : State) :
    (readChannels list cs drdy s).engine.out.length = list.length := by
  obtain ⟨vs, evs, hlen, -, -, heng, -⟩ :=
    scanLoop_changes cs drdy list (s.withEngine { s.engine with out := [], idx := 0 })
  rw [readChannels, heng]
  exact hlen

/-- The result has this many bytes. -/
def State.ResultHasLength (n : Nat) (t : State) : Prop := t.result.toBytes.length = n

theorem execSetmode_resultHasLength (mode : Byte) (s : State) :
    Returns (execSetmode mode s) (State.ResultHasLength 0) := by
  refine returns_whenLive ?_
  cases scanModeOf mode with
  | none => exact returns_refused _ _
  | some m => exact returns_finish rfl

theorem execRdchans_resultHasLength (list : List Byte) (cs drdy : Pin) (s : State) :
    Returns (execRdchans list cs drdy s) (State.ResultHasLength (4 * list.length)) := by
  have h : Returns ((readChannels list cs drdy s).finish (.words (readChannels list cs drdy s).engine.out))
      (State.ResultHasLength (4 * list.length)) := by
    refine returns_finish ?_
    exact (Result.length_toBytes_words _).trans (congrArg (4 * ·) (readChannels_out_length list cs drdy s))
  refine returns_whenLive ?_
  cases list with
  | nil => exact h
  | cons ch rest => exact returns_whenSingleEnded h

/-- Every operation: its guards, then the form of the result it ends with. -/
theorem exec_resultHasLength (i : Instr) (s : State) :
    Returns (exec i s) (State.ResultHasLength (resultLength i)) := by
  cases i with
  | setmode mode => exact execSetmode_resultHasLength mode s
  | rdchan ch cs drdy => exact returns_whenLive (returns_whenSingleEnded (returns_finish rfl))
  | rdchans list cs drdy => exact execRdchans_resultHasLength list cs drdy s
  | reserved id => exact returns_whenLive (returns_refused _ _)
  | _ => exact returns_whenLive (returns_finish rfl)

/-- Settles O52: what `exec_resultHasLength` says of the state an operation returns. -/
theorem resultHasTableLength : Obligations.ResultHasTableLength :=
  fun i s => exec_resultHasLength i s

/-! ### The first bytes of the engine's own transactions (R92)

As with `Orderly`, the events of the engine's own sequences are put together from pieces that hold whole
transactions, so what holds of the transactions of each piece holds of those of the sequence. -/

/-- A transaction whose first byte is in the rule's list, and whose second byte, if it has one, is 0x00. -/
def Window.Listed (p : Params) (w : Window) : Prop :=
  ∃ b rest, w.sent = b :: rest ∧ b ∈ ownFirstBytes p ∧ (rest = [] ∨ rest.head? = some 0x00)

/-- Events that add listed transactions to a trace, before those of the events after them. -/
def OwnEvents (p : Params) (evs : List Event) : Prop :=
  ∀ after, ∃ ws, transactions (evs ++ after) = ws ++ transactions after ∧ ∀ w ∈ ws, w.Listed p

namespace OwnEvents

variable {p : Params}

theorem transactions_listed {evs : List Event} (h : OwnEvents p evs) :
    ∀ w ∈ transactions evs, w.Listed p := by
  obtain ⟨ws, heq, hws⟩ := h []
  rw [List.append_nil, show transactions [] = [] from rfl, List.append_nil] at heq
  exact heq ▸ hws

theorem nil : OwnEvents p [] := fun _ => ⟨[], rfl, nofun⟩
theorem rd (q : Pin) (l : Level) : OwnEvents p [.rd q l] := fun _ => ⟨[], rfl, nofun⟩
theorem dly (ms : Nat) : OwnEvents p [.dly ms] := fun _ => ⟨[], rfl, nofun⟩
theorem dg (d : Diag) : OwnEvents p [.dg d] := fun _ => ⟨[], rfl, nofun⟩

theorem append {a b : List Event} (ha : OwnEvents p a) (hb : OwnEvents p b) : OwnEvents p (a ++ b) := by
  intro after
  obtain ⟨vs, hvs, hva⟩ := ha (b ++ after)
  obtain ⟨ws, hws, hwb⟩ := hb after
  refine ⟨vs ++ ws, by rw [List.append_assoc, hvs, hws, List.append_assoc], fun w hw => ?_⟩
  exact (List.mem_append.1 hw).elim (hva w) (hwb w)

theorem window (cs : Pin) (x : Byte × Byte) (xs : List (Byte × Byte)) (hx : x.1 ∈ ownFirstBytes p)
    (hxs : xs.map Prod.fst = [] ∨ (xs.map Prod.fst).head? = some 0x00) :
    OwnEvents p (windowEvents cs (x :: xs)) := by
  refine fun after => ⟨[_], transactions_windowEvents_append cs x xs after, fun w hw => ?_⟩
  obtain rfl := List.mem_singleton.1 hw
  exact ⟨x.1, xs.map Prod.fst, rfl, hx, hxs⟩

/-! The events of the engine's sequences. -/

theorem stop (cs : Pin) (r0 : Byte) : OwnEvents p (windowEvents cs [(p.cmdStop, r0)]) :=
  window cs _ _ (by simp [ownFirstBytes]) (.inl rfl)

theorem start (cs : Pin) (r0 : Byte) : OwnEvents p (windowEvents cs [(p.cmdStart, r0)]) :=
  window cs _ _ (by simp [ownFirstBytes]) (.inl rfl)

theorem frame (cs : Pin) (f : Frame) : OwnEvents p (frameEvents cs f) :=
  window cs _ _ (by simp [ownFirstBytes]) (.inr rfl)

theorem write {reg : Byte} (hreg : p.opWreg ||| reg ∈ ownFirstBytes p) (cs : Pin) (data r0 r1 r2 : Byte) :
    OwnEvents p (writeEvents p cs reg data r0 r1 r2) :=
  window cs _ _ hreg (.inr rfl)

theorem read {reg : Byte} (hreg : p.opRreg ||| reg ∈ ownFirstBytes p) (cs : Pin) (r0 r1 v : Byte) :
    OwnEvents p (readEvents p cs reg r0 r1 v) :=
  window cs _ _ hreg (.inr rfl)

theorem mismatch (cs : Pin) (reg written readback : Byte) :
    OwnEvents p (mismatchEvents cs reg written readback) := by
  unfold mismatchEvents
  split
  · exact nil
  · exact dg _

theorem identity (cs : Pin) (r0 r1 v : Byte) : OwnEvents p (identityEvents p cs r0 r1 v) :=
  (read (by simp [ownFirstBytes]) cs r0 r1 v).append (dg _)

theorem configStep {reg : Byte} (hw : p.opWreg ||| reg ∈ ownFirstBytes p)
    (hr : p.opRreg ||| reg ∈ ownFirstBytes p) (cs : Pin) (val : Byte) (a : WriteBack) :
    OwnEvents p (configStepEvents p cs reg val a) :=
  (((write hw cs val _ _ _).append (dly 5)).append (read hr cs _ _ _)).append (mismatch cs reg val _)

theorem configure (cs : Pin) (delay rate : Byte) (a b c d : WriteBack) :
    OwnEvents p (configEvents p cs delay rate a b c d) :=
  (((configStep (by simp [ownFirstBytes]) (by simp [ownFirstBytes]) cs _ a).append
    (configStep (by simp [ownFirstBytes]) (by simp [ownFirstBytes]) cs _ b)).append
    (configStep (by simp [ownFirstBytes]) (by simp [ownFirstBytes]) cs _ c)).append
    (configStep (by simp [ownFirstBytes]) (by simp [ownFirstBytes]) cs _ d)

theorem select (cs : Pin) (ch : Byte) (a : WriteBack) : OwnEvents p (selectEvents p cs ch a) :=
  ((write (by simp [ownFirstBytes]) cs _ _ _ _).append (read (by simp [ownFirstBytes]) cs _ _ _)).append
    (mismatch cs _ _ _)

theorem replicate_rd (q : Pin) (l : Level) (n : Nat) : OwnEvents p (List.replicate n (.rd q l)) := by
  induction n with
  | zero => exact nil
  | succ n ih => exact (rd q l).append ih

theorem wait (drdy : Pin) (w : Wait) : OwnEvents p (waitEvents drdy w) := by
  refine (replicate_rd drdy .high w.highs).append ?_
  split
  · exact dg _
  · exact rd _ _

theorem rounds (cs : Pin) (ch : Byte) (drdy : Pin) (rs : List ReadRound) :
    ∀ n, OwnEvents p (roundsEvents cs ch drdy n rs) := by
  induction rs with
  | nil => exact fun n => nil
  | cons r rest ih =>
    intro n
    refine (((wait drdy r.wait).append (frame cs r.frame)).append ?_).append (ih (n + 1))
    split
    · exact nil
    · exact dg _

theorem channel (cs : Pin) (ch : Byte) (drdy : Pin) (x : Byte) (a : WriteBack) (y : Byte)
    (rs : List ReadRound) (ok : Bool) : OwnEvents p (channelEvents p cs ch drdy x a y rs ok) := by
  refine ((((stop cs x).append (select cs ch a)).append (start cs y)).append
    (rounds cs ch drdy rs 0)).append ?_
  cases ok with
  | true => exact nil
  | false => exact dg _

end OwnEvents

/-- `t` is left from `s` by events of the engine's own sequences. -/
def OwnRun (s t : State) : Prop := ∃ evs, Ran s t evs ∧ OwnEvents s.params evs

theorem Performed.ownRun {s t : State} {evs : List Event} {e : Engine} {r : Result}
    (h : Performed s t evs e r) (ho : OwnEvents s.params evs) : OwnRun s t := ⟨evs, h.ran, ho⟩

theorem OwnRun.withEngine (s : State) (e : Engine) : OwnRun s (s.withEngine e) :=
  ⟨[], ran_withEngine s e, .nil⟩

theorem OwnRun.trans {s t u : State} (h : OwnRun s t) (k : OwnRun t u) : OwnRun s u := by
  obtain ⟨a, hran, ha⟩ := h
  obtain ⟨b, kran, hb⟩ := k
  rw [hran.params] at hb
  exact ⟨a ++ b, hran.trans kran, ha.append hb⟩

theorem OwnRun.finish {s t : State} (h : OwnRun s t) (r : Result) : Returns (t.finish r) (OwnRun s) := by
  obtain ⟨evs, hran, ho⟩ := h
  exact returns_finish ⟨evs, hran.congr (ran_returning t r), ho⟩

theorem ownRun_chipIdCheck (cs : Pin) (s : State) : OwnRun s (chipIdCheck cs s).2 := by
  obtain ⟨r0, r1, v, -, h⟩ := chipIdCheck_performed cs s
  exact h.ownRun (.identity cs r0 r1 v)

theorem ownRun_configure (delay rate : Byte) (cs : Pin) (s : State) :
    OwnRun s (configure delay rate cs s) := by
  obtain ⟨a, b, c, d, h⟩ := configure_performed delay rate cs s
  exact h.ownRun (.configure cs delay rate a b c d)

theorem ownRun_initDevice (rate : Byte) (cs : Pin) (s : State) : OwnRun s (initDevice rate cs s) := by
  obtain ⟨r0, r1, v, x, a, b, c, d, h⟩ := initDevice_performed rate cs s
  exact h.ownRun (((OwnEvents.identity cs r0 r1 v).append (.stop cs x)).append (.configure cs _ _ a b c d))

theorem ownRun_selectChannel (ch : Byte) (cs : Pin) (s : State) : OwnRun s (selectChannel ch cs s) := by
  cases hch : channelValid ch with
  | false =>
    rw [selectChannel_of_invalid hch]
    exact ⟨[], Ran.refl s, .nil⟩
  | true =>
    obtain ⟨a, h⟩ := selectChannel_performed cs s hch
    exact h.ownRun (.select cs ch a)

theorem ownRun_framedRead (cs : Pin) (s : State) : OwnRun s (framedRead cs s).2 :=
  (framedRead_performed cs s).ownRun (.frame cs _)

theorem ownRun_readChannel (ch : Byte) (cs drdy : Pin) (s : State) :
    OwnRun s (readChannel ch cs drdy s).2 := by
  cases hch : channelValid ch with
  | false =>
    rw [readChannel_of_invalid hch]
    obtain ⟨r0, h⟩ := stopConversions_performed cs s
    exact h.ownRun (.stop cs r0)
  | true =>
    obtain ⟨⟨x, a, y, rs, ok, -, hran, -, -⟩, -⟩ := readChannel_ran cs drdy s hch
    exact ⟨_, hran, .channel cs ch drdy x a y rs ok⟩

theorem ownRun_scanLoop (cs drdy : Pin) (list : List Byte) :
    ∀ s : State, OwnRun s (scanLoop cs drdy list s) := by
  induction list with
  | nil => exact fun s => ⟨[], Ran.refl s, .nil⟩
  | cons ch rest ih =>
    intro s
    exact ((ownRun_readChannel ch cs drdy s).trans (.withEngine _ _)).trans (ih _)

theorem execRdchans_ownRun (list : List Byte) (cs drdy : Pin) (s : State) :
    Returns (execRdchans list cs drdy s) (OwnRun s) := by
  have h := ((OwnRun.withEngine s { s.engine with out := [], idx := 0 }).trans
    (ownRun_scanLoop cs drdy list _)).finish (.words (readChannels list cs drdy s).engine.out)
  refine returns_whenLive ?_
  cases list with
  | nil => exact h
  | cons ch rest => exact returns_whenSingleEnded h

/-- The engine's own sequences: the guards of each, then its events. -/
theorem exec_ownRun {i : Instr} (hown : ownSequence i = true) (s : State) :
    Returns (exec i s) (OwnRun s) := by
  cases i with
  | chipid cs => exact returns_whenLive ((ownRun_chipIdCheck cs s).finish _)
  | config delay rate cs => exact returns_whenLive ((ownRun_configure delay rate cs s).finish _)
  | init rate cs => exact returns_whenLive ((ownRun_initDevice rate cs s).finish _)
  | selch ch cs => exact returns_whenLive ((ownRun_selectChannel ch cs s).finish _)
  | framerd cs => exact returns_whenLive ((ownRun_framedRead cs s).finish _)
  | rdchan ch cs drdy =>
    exact returns_whenLive (returns_whenSingleEnded ((ownRun_readChannel ch cs drdy s).finish _))
  | rdchans list cs drdy => exact execRdchans_ownRun list cs drdy s
  | _ => cases hown

/-- Settles O51: the events the sequence appends to the trace hold listed transactions only. -/
theorem ownSequencesEmitListedBytes : Obligations.OwnSequencesEmitListedBytes := by
  intro i s t hown hexec
  obtain ⟨evs, hran, ho⟩ := exec_ownRun hown s t hexec
  exact ⟨evs, hran.trace, ho.transactions_listed⟩

end Sys2Proof.Machine

/-! PROOFS of the family 40_register_access.md: the register access operations of the host (R110 to R112), and the
round trip of a register of the reference mock (R40, R114). -/

namespace Sys2Proof.Machine

/-! ### What the host's register operations perform (R110 to R112)

The host's operation is the wire row's, so what a row performs in a live state its host operation does. -/

/-- After SHUTDOWN an operation is refused (R31, R196). -/
theorem whenLive_of_released {s : State} {k : Host.Outcome State Fault Refusal}
    (h : s.engine.released = true) : s.whenLive k = .refused .released := if_pos h

/-- Settles O12: the encodings by evaluation, the window that of the wire row W-CMD. -/
theorem wcmdPerformsCommandWindow : Obligations.WcmdPerformsCommandWindow :=
  fun cmd cs _ _ => ⟨rfl, rfl, rfl, fun hreleased => whenLive_of_released hreleased,
    fun hlive => exec_wireCmd_performed hlive cmd cs⟩

/-- Settles O13: the encodings by evaluation, the window that of the wire row W-WREG. -/
theorem wregPerformsWriteWindow : Obligations.WregPerformsWriteWindow :=
  fun reg data cs _ _ => ⟨rfl, rfl, rfl, fun hreleased => whenLive_of_released hreleased,
    fun hlive => exec_wireWreg_performed hlive reg data cs⟩

/-! ### The answers to a register read (R40, R112) -/

/-- A live RREG against a script: its window with the script's next three bytes, the third of them returned. -/
theorem exec_rreg_of_scripted {s : State} {r0 r1 v : Byte} {bytes : List Byte} {levels : List Level} (reg : Byte)
    (cs : Pin) (hlive : s.engine.released = false) (henv : s.env = .scripted (r0 :: r1 :: v :: bytes) levels) :
    ∃ t, exec (.rreg reg cs) s = .next t ∧
      Performed s t (readEvents s.params cs reg r0 r1 v) { s.engine with csHeld := none } (.byte v) := by
  obtain ⟨q0, q1, q2, t, hexec, hrun⟩ := exec_wireRreg_performed hlive reg cs
  have hanswers := hrun.ran.answers
  rw [henv] at hanswers
  obtain ⟨rfl, rfl, rfl, -⟩ := hanswers
  exact ⟨t, hexec, hrun⟩

/-- The mock takes the first byte of a register read for a read of that register (R40, R93). -/
theorem mockKind_readOpcode {p : Params} {reg : Byte} (hp : p.WireWF) (hreg : reg &&& p.classMask = 0) :
    mockKind p (readOpcode p reg) = .regRead reg := by
  obtain ⟨-, hrreg, hne⟩ := hp
  obtain ⟨hclass, haddr⟩ := opcode_or_reg_masked hrreg hreg
  simp [mockKind, readOpcode, hclass, haddr, hne.symm]

/-- The mock answers 0 to the first two transfers of a register read and the register to the third (R40). -/
theorem Env.mock_answers_readEvents {p : Params} {n : Nat} {cs : Pin} {reg r0 r1 v b : Byte} {m : Mock}
    (hkind : mockKind p (readOpcode p reg) = .regRead reg) (hvalue : m.regs.read (regAddr cs reg) = some b)
    (h : (Env.mock m).Answers p n (readEvents p cs reg r0 r1 v)) : r0 = 0 ∧ r1 = 0 ∧ v = b := by
  unfold readOpcode at hkind
  simpa [Env.Answers, readEvents, windowEvents, Env.observe, Env.answerByte, Mock.observe, Mock.answerByte,
    Mock.transferEffect, Window.firstByte, Mock.readAnswer, hkind, hvalue] using h

/-- A live RREG of a register that holds a byte in the mock: its window with the mock's answers, and the byte. -/
theorem exec_rreg_of_mock {s : State} {m : Mock} {reg b : Byte} {cs : Pin} (hlive : s.engine.released = false)
    (henv : s.env = .mock m) (hp : s.params.WireWF) (hreg : reg &&& s.params.classMask = 0)
    (hvalue : m.regs.read (regAddr cs reg) = some b) :
    ∃ t, exec (.rreg reg cs) s = .next t ∧
      Performed s t (readEvents s.params cs reg 0 0 b) { s.engine with csHeld := none } (.byte b) := by
  obtain ⟨r0, r1, v, t, hexec, hrun⟩ := exec_wireRreg_performed hlive reg cs
  have hanswers := hrun.ran.answers
  rw [henv] at hanswers
  obtain ⟨rfl, rfl, rfl⟩ := Env.mock_answers_readEvents (mockKind_readOpcode hp hreg) hvalue hanswers
  exact ⟨t, hexec, hrun⟩

/-- Settles O14: the window is that of the wire row W-RREG, whose third answer is the script's third byte, or the
mock's register. -/
theorem rregReturnsThirdAnswer : Obligations.RregReturnsThirdAnswer := by
  refine ⟨fun reg cs _ s => ⟨rfl, rfl, fun hreleased => whenLive_of_released hreleased,
    fun hlive => exec_wireRreg_performed hlive reg cs⟩, ?_, ?_⟩
  · intro reg cs r0 r1 v bytes levels s hlive henv
    obtain ⟨t, hexec, hrun⟩ := exec_rreg_of_scripted reg cs hlive henv
    refine ⟨t, hexec, hrun.result, ?_⟩
    rw [hrun.ran.env, henv]
    rfl
  · intro s m hlive hparams henv hvalue
    obtain ⟨t, hexec, hrun⟩ := exec_rreg_of_mock hlive henv (by rw [hparams]; decide)
      (by rw [hparams]; decide) hvalue
    refine ⟨t, hexec, hrun.result, ?_⟩
    rw [hrun.ran.trace, hparams]
    rfl

/-! ### The round trip of a register (R114) -/

/-- In the mock a register write without class bits leaves its data byte in the register it names (R40). -/
theorem Mock.read_observeAll_write {p : Params} {reg : Byte} (hp : p.WireWF)
    (hreg : reg &&& p.classMask = 0) (cs : Pin) (data r0 r1 r2 : Byte) (m : Mock) :
    (m.observeAll p (writeEvents p cs reg data r0 r1 r2)).regs.read (regAddr cs reg) = some data := by
  obtain ⟨hwreg, -, -⟩ := hp
  obtain ⟨hclass, haddr⟩ := opcode_or_reg_masked hwreg hreg
  rw [Mock.regs_observeAll_write hclass, writeOpcode, haddr, Memory.read_write, if_pos rfl]

/-- Settles O17: the write leaves the byte in the mock's register and the engine live, and the read returns what
the register holds. -/
theorem mockRegisterRoundTrip : Obligations.MockRegisterRoundTrip := by
  intro s m reg b cs hlive hp henv hreg
  obtain ⟨r0, r1, r2, t, hwrite, hrun⟩ := exec_wireWreg_performed hlive reg b cs
  have hparams := hrun.ran.params
  have hlive' : t.engine.released = false := by rw [hrun.engine]; exact hlive
  have henv' : t.env = .mock (m.observeAll s.params (writeEvents s.params cs reg b r0 r1 r2)) := by
    rw [hrun.ran.env, henv, Env.observeAll_mock]
  rw [← hparams] at hp hreg henv'
  obtain ⟨u, hread, hrun'⟩ := exec_rreg_of_mock hlive' henv' hp hreg
    (Mock.read_observeAll_write hp hreg cs b r0 r1 r2 m)
  exact ⟨t, u, hwrite, hread, hrun'.result⟩

end Sys2Proof.Machine

/-! PROOFS of the family 41_checksum.md: the check byte CHKSUM computes (R120), the one received byte that passes
(R122), and the changes of a sample the check does not see (R123). -/

namespace Sys2Proof.Machine

/-! ### The expected check byte (R120) -/

theorem expectedCheck_toNat (value : Word) : (expectedCheck value).toNat = expectedCheckNat value := by
  simp only [expectedCheck, byteSum, expectedCheckNat, byteSumNat, Config.chkConst, BitVec.toNat_add,
    Nat.mod_add_mod]
  rfl

theorem expectedCheck_eq_ofNat (value : Word) : expectedCheck value = BitVec.ofNat 8 (expectedCheckNat value) := by
  rw [← expectedCheck_toNat, BitVec.ofNat_toNat, BitVec.setWidth_eq]

/-- A received byte passes exactly when it is the expected one (R120, R122). -/
theorem checksum_eq_zero_iff (value : Word) (rx : Byte) : checksum value rx = 0 ↔ rx = expectedCheck value :=
  BitVec.xor_eq_zero_iff.trans eq_comm

theorem checksum_eq_zero_iff_toNat (value : Word) (rx : Byte) :
    checksum value rx = 0 ↔ rx.toNat = expectedCheckNat value := by
  rw [checksum_eq_zero_iff, ← expectedCheck_toNat, BitVec.toNat_inj]

/-- The value whose byte sum cancels the additive constant passes with a zero check byte (R120). -/
theorem checksum_zero_of_byteSumNat {value : Word} (h : byteSumNat value = 0x65) : checksum value 0x00 = 0 := by
  rw [checksum_eq_zero_iff_toNat, expectedCheckNat, h]
  rfl

/-- A live CHKSUM returns the expected check byte exclusive-or the received one and writes nothing else (R120). -/
theorem exec_chksum_of_live {s : State} (value : Word) (rx : Byte) (h : s.engine.released = false) :
    exec (.chksum value rx) s =
      .next { s with result := .byte (BitVec.ofNat 8 (expectedCheckNat value) ^^^ rx) } := by
  rw [← expectedCheck_eq_ofNat]
  exact whenLive_of_live h

/-- Settles O20: the meaning of a live CHKSUM, the refusal after SHUTDOWN, the decoding and the corner values by
evaluation, and the passing byte as the expected one. -/
theorem chksumReturnsAdditiveCheck : Obligations.ChksumReturnsAdditiveCheck :=
  ⟨fun value rx _ hlive => exec_chksum_of_live value rx hlive, fun _ _ _ hreleased => whenLive_of_released hreleased,
    fun _ _ _ _ _ _ => rfl, checksum_eq_zero_iff_toNat, fun _ hsum => checksum_zero_of_byteSumNat hsum, by decide⟩

/-! ### The byte that passes (R122) -/

/-- Exclusive-or with the expected check byte undoes itself. -/
theorem checksum_involutive (value : Word) : Function.Involutive (checksum value) := fun rx => by
  rw [checksum, checksum, ← BitVec.xor_assoc, BitVec.xor_self, BitVec.zero_xor]

/-- Settles O21: the passing byte is the expected one, and the check is its own inverse. -/
theorem chksumAcceptsExactlyOneByte : Obligations.ChksumAcceptsExactlyOneByte := fun value =>
  ⟨⟨expectedCheck value, (checksum_eq_zero_iff _ _).2 rfl, fun rx => (checksum_eq_zero_iff value rx).1⟩,
    (checksum_involutive value).bijective⟩

/-! ### The changes the check does not see (R123) -/

theorem byteSum_assembleSample (d3 d2 d1 d0 : Byte) : byteSum (assembleSample d3 d2 d1 d0) = d0 + d1 + d2 + d3 := by
  rw [byteSum, assembleSample_byte0, assembleSample_byte1, assembleSample_byte2, assembleSample_byte3]

/-- Samples whose data bytes have equal sums have equal checks. -/
theorem checksum_assembleSample_congr {d3 d2 d1 d0 c3 c2 c1 c0 : Byte}
    (h : d0 + d1 + d2 + d3 = c0 + c1 + c2 + c3) (rx : Byte) :
    checksum (assembleSample d3 d2 d1 d0) rx = checksum (assembleSample c3 c2 c1 c0) rx := by
  rw [checksum, checksum, expectedCheck, expectedCheck, byteSum_assembleSample, byteSum_assembleSample, h]

/-- Settles O22: each change keeps the sum of the data bytes; the two frames are evaluated. -/
theorem chksumBlindToEqualSums : Obligations.ChksumBlindToEqualSums := by
  refine ⟨fun d3 d2 d1 d0 k rx => ⟨checksum_assembleSample_congr ?_ rx, checksum_assembleSample_congr ?_ rx,
    checksum_assembleSample_congr ?_ rx, checksum_assembleSample_congr ?_ rx⟩, by decide, by decide⟩
  · exact add_right_comm _ _ _
  · rw [add_right_comm d0]
  · rw [add_comm d1]
  · rw [add_assoc, sub_add_add_cancel, ← add_assoc]

end Sys2Proof.Machine

/-! PROOFS of the family 42_data_ready.md: the wait WAITRDY performs for every environment (R130, R132), and the one
wait a script of levels leads to (R130, R133). -/

namespace Sys2Proof.Machine

/-! ### The wait a live WAITRDY performs (R130, R132) -/

/-- A live WAITRDY performs one of the waits R130 allows and returns nothing. -/
theorem exec_waitrdy_performed {s : State} (drdy : Pin) (hlive : s.engine.released = false) :
    ∃ (w : Wait) (t : State), exec (.waitrdy drdy) s = .next t ∧ w.Allowed s.params ∧
      Performed s t (waitEvents drdy w)
        { s.engine with
          poll := w.highs
          diag := s.engine.diag ++ (if w.timedOut then [.readyTimeout drdy] else []) } .none := by
  obtain ⟨w, hallowed, hrun⟩ := waitReady_performed drdy s
  exact ⟨w, _, whenLive_of_live hlive, hallowed, hrun.finish .none⟩

@[simp] theorem drawsOf_replicate_rd (n : Nat) (q : Pin) (l : Level) : drawsOf (List.replicate n (.rd q l)) = n := by
  induction n with
  | zero => rfl
  | succ n ih => rw [List.replicate_succ, drawsOf, ih]

/-- A wait draws an answer for each high level, and one for the low level if one ends it. -/
theorem drawsOf_waitEvents (drdy : Pin) (w : Wait) :
    drawsOf (waitEvents drdy w) = w.highs + if w.timedOut then 0 else 1 := by
  rw [waitEvents, drawsOf_append, drawsOf_replicate_rd]
  split <;> rfl

/-- An allowed wait makes at least one read and at most as many as the bound (R132). -/
theorem Wait.Allowed.draws_bounds {p : Params} {w : Wait} (h : w.Allowed p) (drdy : Pin) :
    1 ≤ drawsOf (waitEvents drdy w) ∧ drawsOf (waitEvents drdy w) ≤ pollBound p := by
  rw [drawsOf_waitEvents]
  unfold Wait.Allowed at h
  split at h <;> rename_i htimedOut
  · simp [htimedOut, h, pollBound]
  · simpa [htimedOut] using h

/-- Settles O25: the wait is an allowed one, and the answers drawn are its reads. -/
theorem waitrdyAlwaysReturns : Obligations.WaitrdyAlwaysReturns := by
  intro drdy s hlive
  obtain ⟨w, t, hexec, hallowed, hrun⟩ := exec_waitrdy_performed drdy hlive
  refine ⟨w, t, hexec, hallowed, hrun, ?_⟩
  rw [hrun.ran.draws, Nat.add_sub_cancel_left]
  exact hallowed.draws_bounds drdy

/-! ### The answers decide the wait (R130) -/

/-- Where a wait goes on, the environment answers high, so none ends there with a low level: of two waits with the
environment's own answers, one that ends low is not the shorter. -/
theorem Env.highs_le_of_answers {p : Params} {e : Env} {n : Nat} {drdy : Pin} {v w : Wait}
    (hlow : w.timedOut = false) (hv : e.Answers p n (waitEvents drdy v)) (hw : e.Answers p n (waitEvents drdy w)) :
    v.highs ≤ w.highs := by
  by_contra! hlt
  obtain ⟨d, hd⟩ := Nat.exists_eq_add_of_lt hlt
  rw [waitEvents, hd, Nat.add_assoc, List.replicate_add, List.append_assoc, Env.answers_append] at hv
  rw [waitEvents, hlow, Env.answers_append] at hw
  have hanswerHigh := hv.2.1
  have hanswerLow := hw.2.1
  rw [← hanswerLow] at hanswerHigh
  cases hanswerHigh

/-- The environment's own answers lead to one allowed wait only. -/
theorem Wait.Allowed.eq_of_answers {p : Params} {e : Env} {n : Nat} {drdy : Pin} {v w : Wait} (hv : v.Allowed p)
    (hw : w.Allowed p) (hvans : e.Answers p n (waitEvents drdy v)) (hwans : e.Answers p n (waitEvents drdy w)) :
    v = w := by
  obtain ⟨highs, timedOut⟩ := v
  obtain ⟨highs', timedOut'⟩ := w
  cases timedOut <;> cases timedOut' <;> simp only [Wait.Allowed, if_true, if_false, Bool.false_eq_true] at hv hw
  case false.false =>
    have hle : highs ≤ highs' := Env.highs_le_of_answers rfl hvans hwans
    have hge : highs' ≤ highs := Env.highs_le_of_answers rfl hwans hvans
    rw [hle.antisymm hge]
  case false.true =>
    have hge : highs' ≤ highs := Env.highs_le_of_answers rfl hwans hvans
    omega
  case true.false =>
    have hle : highs ≤ highs' := Env.highs_le_of_answers rfl hvans hwans
    omega
  case true.true => rw [hv, hw]

/-- A live WAITRDY performs the allowed wait that has the environment's own answers. -/
theorem exec_waitrdy_of_answers {s : State} {drdy : Pin} {w : Wait} (hlive : s.engine.released = false)
    (hallowed : w.Allowed s.params) (hanswers : s.env.Answers s.params s.draws (waitEvents drdy w)) :
    ∃ t, exec (.waitrdy drdy) s = .next t ∧
      Performed s t (waitEvents drdy w)
        { s.engine with
          poll := w.highs
          diag := s.engine.diag ++ (if w.timedOut then [.readyTimeout drdy] else []) } .none := by
  obtain ⟨v, t, hexec, hv, hrun⟩ := exec_waitrdy_performed drdy hlive
  obtain rfl := hv.eq_of_answers hallowed hrun.ran.answers hanswers
  exact ⟨t, hexec, hrun⟩

/-! ### A script of levels (R130, R133) -/

/-- A script answers as many reads as levels with those levels, and what follows them is left. -/
theorem Env.scripted_answers_reads (p : Params) (q : Pin) (bytes : List Byte) (levels more : List Level) :
    ∀ n, (Env.scripted bytes (levels ++ more)).Answers p n (levels.map (.rd q)) ∧
      (Env.scripted bytes (levels ++ more)).observeAll p (levels.map (.rd q)) = .scripted bytes more := by
  induction levels with
  | nil => exact fun _ => ⟨trivial, rfl⟩
  | cons l levels ih => exact fun n => ⟨⟨rfl, (ih (n + 1)).1⟩, (ih (n + 1)).2⟩

/-- Settles O23: the wait of `k` high levels and a low one is allowed, and its reads are the script's first. -/
theorem waitrdyReturnsWhenLineGoesLow : Obligations.WaitrdyReturnsWhenLineGoesLow := by
  intro drdy k bytes levels s hlive hk henv
  have hevents : waitEvents drdy ⟨k, false⟩ = (List.replicate k Level.high ++ [Level.low]).map (.rd drdy) := by
    simp [waitEvents]
  obtain ⟨hanswers, hleft⟩ := Env.scripted_answers_reads s.params drdy bytes
    (List.replicate k .high ++ [.low]) levels s.draws
  rw [List.append_assoc, List.singleton_append, ← henv, ← hevents] at hanswers hleft
  obtain ⟨t, hexec, hrun⟩ := exec_waitrdy_of_answers (w := ⟨k, false⟩) hlive (lt_max_of_lt_right hk) hanswers
  exact ⟨t, hexec, by simpa [waitEvents] using hrun, hrun.ran.env.trans hleft⟩

/-- Settles O24: the wait of as many high levels as the bound is allowed, its reads are the script's first, and its
diagnostic asks the script for nothing. -/
theorem waitrdyTimesOutAtBound : Obligations.WaitrdyTimesOutAtBound := by
  intro drdy bytes levels s hlive hbound henv
  obtain ⟨hanswers, hleft⟩ := Env.scripted_answers_reads s.params drdy bytes
    (List.replicate s.params.readyPollLimit .high) levels s.draws
  rw [← henv, List.map_replicate] at hanswers hleft
  obtain ⟨t, hexec, hrun⟩ := exec_waitrdy_of_answers (w := ⟨s.params.readyPollLimit, true⟩) hlive
    (max_eq_right hbound).symm ((Env.answers_append ..).2 ⟨hanswers, trivial⟩)
  refine ⟨t, hexec, hrun, ?_⟩
  rw [hrun.ran.env, waitEvents, Env.observeAll_append, hleft]
  rfl

end Sys2Proof.Machine

/-! PROOFS of the family 43_configurator.md: what CHIPID, CONFIG, INIT and RESETDEV perform for every answer (R140,
R142, R145, R147), the flag SETMODE writes (R146), and the refusals after SHUTDOWN (R31, R150). -/

namespace Sys2Proof.Machine

/-! ### Scan mode and shutdown (R31, R146, R150) -/

/-- An operand byte above 1 names no scan mode (R90, R146). -/
theorem scanModeOf_of_two_le {mode : Byte} (h : 2 ≤ mode.toNat) : scanModeOf mode = none := by
  unfold scanModeOf
  split
  · omega
  · omega
  · rfl

section

variable {s : State} {mode : Byte} (hlive : s.engine.released = false)
include hlive

/-- A live SETMODE whose operand names a scan mode writes it, and nothing else but the result (R146). -/
theorem exec_setmode_of_some {m : ScanMode} (h : scanModeOf mode = some m) : exec (.setmode mode) s =
    .next { s with engine := { s.engine with scanMode := m }, result := .none } := by
  simp only [exec, execSetmode, whenLive_of_live hlive, h]
  rfl

/-- A live SETMODE whose operand names no scan mode is refused (R90). -/
theorem exec_setmode_of_none (h : scanModeOf mode = none) :
    exec (.setmode mode) s = .refused (.badOperand mode) := by
  simp only [exec, execSetmode, whenLive_of_live hlive, h]

end

/-- Settles O29: the operands 0 and 1 name a scan mode, a greater one names none. -/
theorem setmodeWritesFlagOnly : Obligations.SetmodeWritesFlagOnly := by
  intro mode s hlive
  refine ⟨?_, ?_, fun hmode => exec_setmode_of_none hlive (scanModeOf_of_two_le hmode)⟩
  · rintro rfl
    exact exec_setmode_of_some hlive rfl
  · rintro rfl
    exact exec_setmode_of_some hlive rfl

/-- Every operation, reserved ids too, stands under the test of `E.released` (R31). -/
theorem exec_eq_whenLive (i : Instr) (s : State) : ∃ k, exec i s = s.whenLive k := by
  cases i <;> exact ⟨_, rfl⟩

/-- Settles O31: SHUTDOWN's one write, and the test of `E.released` that every operation begins with. -/
theorem shutdownRefusesEverythingAfter : Obligations.ShutdownRefusesEverythingAfter := by
  refine ⟨fun s hlive => whenLive_of_live hlive, fun i s hreleased => ?_⟩
  obtain ⟨k, hk⟩ := exec_eq_whenLive i s
  rw [hk, whenLive_of_released hreleased]

/-! ### The reset pulse (R147) -/

/-- Settles O30: the last write of the pulse is the high level. -/
theorem resetdevPulsesResetLine : Obligations.ResetdevPulsesResetLine := by
  intro rst s hlive
  have hrun := (resetPulse_performed rst s).finish .none
  refine ⟨_, whenLive_of_live hlive, hrun, ?_⟩
  rw [hrun.ran.pins]
  exact Table.get_set_self _ _ _

/-! ### Identity, configuration and initialisation (R140, R142, R145) -/

/-- Settles O26: the identity check, whose result is the byte it stores. -/
theorem chipidStoresAndLogsIdentity : Obligations.ChipidStoresAndLogsIdentity := by
  intro cs s hlive
  obtain ⟨r0, r1, v, hid, hrun⟩ := chipIdCheck_performed cs s
  refine ⟨r0, r1, v, _, whenLive_of_live hlive, ?_⟩
  rw [hid]
  exact hrun.finish _

/-- The only diagnostic of a CONFIG step is that of its read-back. -/
theorem diagsOf_configStepEvents (p : Params) (cs : Pin) (reg val : Byte) (a : WriteBack) :
    diagsOf (configStepEvents p cs reg val a) = diagsOf (mismatchEvents cs reg val a.readback) := by
  simp only [configStepEvents, writeEvents, readEvents, diagsOf_append, diagsOf_window]
  rfl

/-- Settles O27: the four steps of a configuration, and the diagnostic of each. -/
theorem configRunsFourStepsInOrder : Obligations.ConfigRunsFourStepsInOrder := by
  intro delay rate cs s hlive
  obtain ⟨a, b, c, d, hrun⟩ := configure_performed delay rate cs s
  refine ⟨a, b, c, d, _, whenLive_of_live hlive, ?_⟩
  simpa only [configEvents, diagsOf_append, diagsOf_configStepEvents] using hrun.finish .none

/-- The only diagnostic of an identity check is its verdict. -/
theorem diagsOf_identityEvents (p : Params) (cs : Pin) (r0 r1 v : Byte) :
    diagsOf (identityEvents p cs r0 r1 v) = [identityDiag cs (v >>> p.idShift)] := by
  rw [identityEvents, readEvents, diagsOf_append, diagsOf_window]
  rfl

/-- Settles O28: the initialisation, its stop command logging nothing, with the fixed result 0. -/
theorem initAlwaysReturnsZero : Obligations.InitAlwaysReturnsZero := by
  intro rate cs s hlive
  obtain ⟨r0, r1, v, x, a, b, c, d, hrun⟩ := initDevice_performed rate cs s
  refine ⟨r0, r1, v, x, a, b, c, d, _, whenLive_of_live hlive, ?_⟩
  simpa only [diagsOf_append, diagsOf_identityEvents, diagsOf_window, List.append_nil, ← List.append_assoc]
    using hrun.finish (.byte 0x00)

end Sys2Proof.Machine

/-! PROOFS of the family 44_scanner.md: the channel selection and the framed read (R160, R161), a channel read for
every environment (R166 to R171) and against a script of frames, and the phases every operation enters (R24, R167). -/

namespace Sys2Proof.Machine

/-! ### The channel selection and the framed read (R160, R161) -/

/-- The only diagnostic of a channel selection is that of its read-back. -/
theorem diagsOf_selectEvents (p : Params) (cs : Pin) (ch : Byte) (a : WriteBack) :
    diagsOf (selectEvents p cs ch a) =
      diagsOf (mismatchEvents cs p.regInpmux ((ch <<< 4) ||| 0x0A) a.readback) := by
  simp only [selectEvents, writeEvents, readEvents, diagsOf_append, diagsOf_window, List.nil_append]

/-- Settles O32: the selection of a valid channel. -/
theorem selchWritesMuxByte : Obligations.SelchWritesMuxByte := by
  intro ch cs s hlive hch
  obtain ⟨a, hrun⟩ := selectChannel_performed cs s (decide_eq_true hch)
  rw [diagsOf_selectEvents] at hrun
  exact ⟨a, _, whenLive_of_live hlive, hrun.finish .none⟩

theorem channelValid_of_gt {ch : Byte} (h : 10 < ch.toNat) : channelValid ch = false :=
  decide_eq_false (Nat.not_le.2 h)

/-- Settles O33: the selection of an invalid channel leaves the state as it is. -/
theorem selchIgnoresInvalidChannel : Obligations.SelchIgnoresInvalidChannel := by
  intro ch cs s hlive hch
  have hsel : selectChannel ch cs s = s := selectChannel_of_invalid (channelValid_of_gt hch)
  rw [exec, execSelch, whenLive_of_live hlive, hsel]
  rfl

/-- Settles O35: FRAMERD is the wire row W-FRAME, and its sample the four data bytes side by side. -/
theorem framerdReadsSixBytes : Obligations.FramerdReadsSixBytes := by
  intro cs s hlive
  obtain ⟨f, t, hexec, hrun⟩ := exec_wireFrame_performed hlive cs
  rw [Frame.value, assembleSample_eq_append] at hrun
  exact ⟨f, t, hexec, hrun⟩

/-! ### A channel read (R166 to R171) -/

/-- RDCHAN where no channel read is refused: the read, and its value as the result. -/
theorem exec_rdchan_of_canRead {s : State} (h : s.CanRead) (ch : Byte) (cs drdy : Pin) :
    exec (.rdchan ch cs drdy) s =
      .next ((readChannel ch cs drdy s).2.returning (.word (readChannel ch cs drdy s).1)) :=
  (whenLive_of_live h.1).trans (whenSingleEnded_of h.2)

theorem whenSingleEnded_of_differential {s : State} {k : Host.Outcome State Fault Refusal}
    (h : s.engine.scanMode = .differential) : s.whenSingleEnded k = .refused .unsupportedMode := by
  simp [State.whenSingleEnded, h]

/-- Settles O41: both operations test the mode before anything else but `E.released`. -/
theorem differentialReadsRefused : Obligations.DifferentialReadsRefused :=
  fun _ _ _ _ _ hlive hmode =>
    ⟨(whenLive_of_live hlive).trans (whenSingleEnded_of_differential hmode),
      (whenLive_of_live hlive).trans (whenSingleEnded_of_differential hmode)⟩

/-- Settles O37: a read of an invalid channel is its stop command. -/
theorem rdchanInvalidChannelReturnsZero : Obligations.RdchanInvalidChannelReturnsZero := by
  intro ch cs drdy s hlive hmode hch
  obtain ⟨r0, hrun⟩ := stopConversions_performed cs s
  refine ⟨r0, _, exec_rdchan_of_canRead ⟨hlive, hmode⟩ ch cs drdy, ?_⟩
  rw [readChannel_of_invalid (channelValid_of_gt hch)]
  exact hrun.finish _

/-- The result is no part of what is said of a channel read. -/
theorem ChannelRead.returning {s t : State} {ch : Byte} {cs drdy : Pin} {v : Word}
    (h : ChannelRead s t ch cs drdy v) (r : Result) : ChannelRead s (t.returning r) ch cs drdy v := by
  obtain ⟨x, a, y, rs, ok, hret, hran, heng, hphases⟩ := h
  exact ⟨x, a, y, rs, ok, hret, hran.congr (ran_returning t r), heng, hphases⟩

/-- Settles O38: the read of a valid channel. -/
theorem rdchanReadsUntilValidFrame : Obligations.RdchanReadsUntilValidFrame := by
  intro ch cs drdy s hlive hmode hch
  have hread := (readChannel_ran cs drdy s (decide_eq_true hch)).1
  exact ⟨_, _, exec_rdchan_of_canRead ⟨hlive, hmode⟩ ch cs drdy, rfl, hread.returning _⟩

/-! ### The answers decide the rounds (R166, R168)

What `Wait.Allowed.eq_of_answers` says of a wait, for a frame, a round and the rounds of a channel read. -/

/-- The environment's own answers make up one frame only. -/
theorem Env.frame_eq_of_answers {p : Params} {e : Env} {n : Nat} {cs : Pin} {f g : Frame}
    (hf : e.Answers p n (frameEvents cs f)) (hg : e.Answers p n (frameEvents cs g)) : f = g := by
  cases f
  cases g
  simp only [frameEvents, windowEvents, List.map, List.cons_append, Env.Answers] at hf hg
  obtain ⟨rfl, rfl, rfl, rfl, rfl, rfl, -⟩ := hf
  obtain ⟨rfl, rfl, rfl, rfl, rfl, rfl, -⟩ := hg
  rfl

/-- The events of one round, the `n`th framed read being its own. -/
def roundEvents (cs : Pin) (ch : Byte) (drdy : Pin) (n : Nat) (r : ReadRound) : List Event :=
  waitEvents drdy r.wait ++ frameEvents cs r.frame ++
    (if r.frame.Good then [] else [.dg (.chkFail cs ch n r.frame.value r.frame.chk)])

theorem roundsEvents_cons (cs : Pin) (ch : Byte) (drdy : Pin) (n : Nat) (r : ReadRound) (rs : List ReadRound) :
    roundsEvents cs ch drdy n (r :: rs) =
      roundEvents cs ch drdy (n + 1) r ++ roundsEvents cs ch drdy (n + 1) rs := rfl

/-- The environment's own answers lead to one round only. -/
theorem Env.round_eq_of_answers {p : Params} {e : Env} {k n : Nat} {cs drdy : Pin} {ch : Byte}
    {r q : ReadRound} (hr : r.wait.Allowed p) (hq : q.wait.Allowed p)
    (hrans : e.Answers p k (roundEvents cs ch drdy n r)) (hqans : e.Answers p k (roundEvents cs ch drdy n q)) :
    r = q := by
  obtain ⟨v, f⟩ := r
  obtain ⟨w, g⟩ := q
  simp only [roundEvents, Env.answers_append] at hrans hqans
  obtain ⟨⟨hv, hf⟩, -⟩ := hrans
  obtain ⟨⟨hw, hg⟩, -⟩ := hqans
  obtain rfl := hr.eq_of_answers hq hv hw
  rw [Env.frame_eq_of_answers hf hg]

namespace RoundsReturn

variable {p : Params} {n : Nat} {rs qs : List ReadRound} {r q : ReadRound} {ok ok' : Bool} {v v' : Word}

/-- A round that is the last has a frame that passes, or is the last that may be made (R168). -/
theorem ends (h : RoundsReturn p n [r] ok v) : r.frame.Good ∨ n + 1 = 50 := by
  have hlast := h.last r rfl
  split at hlast
  · exact .inl hlast.1
  · obtain ⟨-, hcount, -⟩ := hlast
    exact .inr hcount

/-- A round with more behind it has a frame that fails, and is not the last that may be made; the others are the
rounds from there (R166). -/
theorem goesOn (h : RoundsReturn p n (r :: q :: rs) ok v) :
    ¬ r.frame.Good ∧ n + 1 < 50 ∧ RoundsReturn p (n + 1) (q :: rs) ok v := by
  have hmost := h.most
  have hcount : n + (r :: q :: rs).length = n + 1 + (q :: rs).length := by
    simp only [List.length_cons]
    omega
  refine ⟨h.earlier r (by simp), by simp at hmost; omega, List.cons_ne_nil _ _, hcount ▸ hmost,
    fun x hx => h.waits x (.tail _ hx), fun x hx => h.earlier x (.tail _ hx), fun x hx => ?_⟩
  rw [← hcount]
  exact h.last x hx

/-- The environment's own answers lead to the rounds of one channel read only. -/
theorem rounds_eq_of_answers {cs drdy : Pin} {ch : Byte} : ∀ {rs qs : List ReadRound} {e : Env} {k n : Nat},
    RoundsReturn p n rs ok v → RoundsReturn p n qs ok' v' →
    e.Answers p k (roundsEvents cs ch drdy n rs) → e.Answers p k (roundsEvents cs ch drdy n qs) → rs = qs
  | [], _, _, _, _, h, _, _, _ => absurd rfl h.nonempty
  | _, [], _, _, _, _, h, _, _ => absurd rfl h.nonempty
  | r :: rs, q :: qs, e, k, n, hr, hq, hrans, hqans => by
    rw [roundsEvents_cons, Env.answers_append] at hrans hqans
    obtain rfl : r = q :=
      Env.round_eq_of_answers (hr.waits r (.head _)) (hq.waits q (.head _)) hrans.1 hqans.1
    match rs, qs with
    | [], [] => rfl
    | [], q' :: qs =>
      obtain ⟨hbad, hlt, -⟩ := hq.goesOn
      exact absurd hr.ends (not_or.2 ⟨hbad, hlt.ne⟩)
    | r' :: rs, [] =>
      obtain ⟨hbad, hlt, -⟩ := hr.goesOn
      exact absurd hq.ends (not_or.2 ⟨hbad, hlt.ne⟩)
    | r' :: rs, q' :: qs =>
      obtain ⟨-, -, hr'⟩ := hr.goesOn
      obtain ⟨-, -, hq'⟩ := hq.goesOn
      rw [rounds_eq_of_answers hr' hq' hrans.2 hqans.2]

/-- The rounds decide how a channel read ends and what it returns. -/
theorem ends_eq (h : RoundsReturn p n rs ok v) (h' : RoundsReturn p n rs ok' v') : ok = ok' ∧ v = v' := by
  have hget := List.getLast?_eq_some_getLast h.nonempty
  have hlast := h.last _ hget
  have hlast' := h'.last _ hget
  cases ok <;> cases ok' <;> simp only [if_true, if_false, Bool.false_eq_true] at hlast hlast'
  case false.false => exact ⟨rfl, hlast.2.2.trans hlast'.2.2.symm⟩
  case false.true => exact absurd hlast'.1 hlast.1
  case true.false => exact absurd hlast.1 hlast'.1
  case true.true => exact ⟨rfl, hlast.2.trans hlast'.2.symm⟩

end RoundsReturn

/-! ### A script of frames (R166, R168) -/

/-- The line is low at once, and this frame is received. -/
def ReadRound.atOnce (f : Frame) : ReadRound := ⟨⟨0, false⟩, f⟩

/-- A window takes one byte of a script for each of its transfers. -/
theorem Env.observeAll_window (p : Params) (cs : Pin) (xs : List (Byte × Byte)) (levels : List Level) :
    ∀ bytes, (Env.scripted bytes levels).observeAll p (windowEvents cs xs) =
      .scripted (bytes.drop xs.length) levels := by
  have htransfers : ∀ bytes, (Env.scripted bytes levels).observeAll p (xs.map fun x => .xfer x.1 x.2) =
      .scripted (bytes.drop xs.length) levels := by
    induction xs with
    | nil => exact fun _ => rfl
    | cons x xs ih =>
      intro bytes
      rw [List.map_cons, Env.observeAll_cons, List.length_cons, Nat.add_comm, ← List.drop_drop]
      exact ih (bytes.drop 1)
  intro bytes
  rw [windowEvents, Env.observeAll_append, Env.observeAll_cons]
  exact congrArg (Env.observe p · (.wr cs .high)) (htransfers bytes)

/-- A diagnostic takes nothing of a script. -/
theorem Env.observeAll_mismatch (p : Params) (cs : Pin) (reg written readback : Byte) (bytes : List Byte)
    (levels : List Level) :
    (Env.scripted bytes levels).observeAll p (mismatchEvents cs reg written readback) = .scripted bytes levels := by
  unfold mismatchEvents
  split <;> rfl

/-- What a channel read does before its rounds takes eight bytes of a script. -/
theorem Env.observeAll_opening (p : Params) (cs : Pin) (ch x y : Byte) (a : WriteBack) {pre : List Byte}
    (hpre : pre.length = 8) (bytes : List Byte) (levels : List Level) :
    (Env.scripted (pre ++ bytes) levels).observeAll p (windowEvents cs [(p.cmdStop, x)] ++
      selectEvents p cs ch a ++ windowEvents cs [(p.cmdStart, y)]) = .scripted bytes levels := by
  simp [selectEvents, writeEvents, readEvents, Env.observeAll_window, Env.observeAll_mismatch, hpre]

/-- The script that answers as many rounds as frames, each at once, and then goes on with these bytes and levels. -/
def Env.ofFrames (frames : List Frame) (bytes : List Byte) (levels : List Level) : Env :=
  .scripted (frames.flatMap Frame.bytes ++ bytes) (List.replicate frames.length Level.low ++ levels)

/-- Its first frame answers one round, and the script of the others is left. -/
theorem Env.ofFrames_answers_round (p : Params) (cs : Pin) (ch : Byte) (drdy : Pin) (k n : Nat) (f : Frame)
    (frames : List Frame) (bytes : List Byte) (levels : List Level) :
    (Env.ofFrames (f :: frames) bytes levels).Answers p k (roundEvents cs ch drdy n (.atOnce f)) ∧
      (Env.ofFrames (f :: frames) bytes levels).observeAll p (roundEvents cs ch drdy n (.atOnce f)) =
        .ofFrames frames bytes levels := by
  unfold roundEvents
  split <;> exact ⟨⟨rfl, rfl, rfl, rfl, rfl, rfl, rfl, trivial⟩, rfl⟩

/-- It answers the rounds with its frames, and what follows them is left. -/
theorem Env.ofFrames_answers_rounds (p : Params) (cs : Pin) (ch : Byte) (drdy : Pin) (bytes : List Byte)
    (levels : List Level) (frames : List Frame) : ∀ k n,
    (Env.ofFrames frames bytes levels).Answers p k (roundsEvents cs ch drdy n (frames.map .atOnce)) ∧
      (Env.ofFrames frames bytes levels).observeAll p (roundsEvents cs ch drdy n (frames.map .atOnce)) =
        .scripted bytes levels := by
  induction frames with
  | nil => exact fun _ _ => ⟨trivial, rfl⟩
  | cons f frames ih =>
    intro k n
    obtain ⟨hround, hothers⟩ := Env.ofFrames_answers_round p cs ch drdy k (n + 1) f frames bytes levels
    rw [List.map_cons, roundsEvents_cons, Env.answers_append, Env.observeAll_append, hothers]
    exact ⟨⟨hround, (ih _ _).1⟩, (ih k _).2⟩

/-- Frames received at once are rounds of a channel read if they end as R168 says. -/
theorem RoundsReturn.of_atOnce {p : Params} {frames : List Frame} {ok : Bool} {v : Word} (hne : frames ≠ [])
    (hmost : frames.length ≤ 50) (hearlier : ∀ f ∈ frames.dropLast, ¬ f.Good)
    (hlast : ∀ f, frames.getLast? = some f →
      if ok then f.Good ∧ v = f.value else ¬ f.Good ∧ frames.length = 50 ∧ v = 0xFFFFFFFF) :
    RoundsReturn p 0 (frames.map .atOnce) ok v where
  nonempty := mt List.map_eq_nil_iff.1 hne
  most := by simpa using hmost
  waits := List.forall_mem_map.2 fun _ _ => lt_max_of_lt_left Nat.one_pos
  earlier := by
    rw [← List.map_dropLast]
    exact List.forall_mem_map.2 hearlier
  last := by
    intro r hr
    rw [List.getLast?_map] at hr
    obtain ⟨f, hf, rfl⟩ := Option.map_eq_some_iff.1 hr
    rw [List.length_map, Nat.zero_add]
    exact hlast f hf

/-- RDCHAN of a valid channel against a script that has, after eight bytes, frames which the rounds of a channel read
may consist of: these are its rounds. -/
theorem exec_rdchan_of_scripted {s : State} {ch : Byte} {pre bytes : List Byte} {frames : List Frame}
    {levels : List Level} {ok : Bool} {v : Word} (cs drdy : Pin) (h : s.CanRead) (hch : ch.toNat ≤ 10)
    (hpre : pre.length = 8) (hrounds : RoundsReturn s.params 0 (frames.map .atOnce) ok v)
    (henv : s.env = .scripted (pre ++ (frames.flatMap Frame.bytes ++ bytes))
      (List.replicate frames.length Level.low ++ levels)) :
    ∃ t, exec (.rdchan ch cs drdy) s = .next t ∧ t.result = .word v ∧
      t.engine.attempt = frames.length ∧ t.engine.frame = frames.getLast? ∧
      (∃ diags, t.engine.diag = diags ++ diagsOf (endEvents cs ch ok)) ∧ t.env = .scripted bytes levels := by
  obtain ⟨w, t, hexec, hresult, x, a, y, rs, ok', hrs, hran, heng, -⟩ :=
    rdchanReadsUntilValidFrame ch cs drdy s h.1 h.2 hch
  have hopening : s.env.observeAll s.params (windowEvents cs [(s.params.cmdStop, x)] ++
      selectEvents s.params cs ch a ++ windowEvents cs [(s.params.cmdStart, y)]) =
      .ofFrames frames bytes levels := by
    rw [henv]
    exact Env.observeAll_opening s.params cs ch x y a hpre _ _
  have hanswers := hran.answers
  rw [channelEvents, Env.answers_append, Env.answers_append, hopening] at hanswers
  obtain rfl := hrs.rounds_eq_of_answers hrounds hanswers.1.2
    (Env.ofFrames_answers_rounds s.params cs ch drdy bytes levels frames _ 0).1
  obtain ⟨rfl, rfl⟩ := hrs.ends_eq hrounds
  refine ⟨t, hexec, hresult, ?_, ?_, ?_, ?_⟩
  · rw [heng]
    exact List.length_map _
  · rw [heng, List.getLast?_map]
    exact (Option.map_map _ _ _).trans Option.map_id_apply
  · rw [heng, channelEvents, diagsOf_append, ← List.append_assoc]
    exact ⟨_, rfl⟩
  · rw [hran.env, channelEvents, Env.observeAll_append, Env.observeAll_append, hopening,
      (Env.ofFrames_answers_rounds s.params cs ch drdy bytes levels frames 0 0).2]
    cases ok' <;> rfl

/-- Settles O39: the rounds are the frames that fail and the one that passes. -/
theorem rdchanReturnsFirstGoodFrame : Obligations.RdchanReturnsFirstGoodFrame := by
  intro ch cs drdy pre bad good bytes levels s hlive hmode hch hpre hlt hbad hgood henv
  have hrounds : RoundsReturn s.params 0 ((bad ++ [good]).map .atOnce) true good.value :=
    .of_atOnce (by simp) (by simpa using hlt) (by simpa using hbad) (by simpa using hgood)
  obtain ⟨t, hexec, hresult, hattempt, hframe, -, hleft⟩ := exec_rdchan_of_scripted (bytes := bytes)
    (levels := levels) cs drdy ⟨hlive, hmode⟩ hch hpre hrounds (by simpa using henv)
  rw [Frame.value, assembleSample_eq_append] at hresult
  exact ⟨t, hexec, hresult, by simpa using hattempt, by simpa using hframe, hleft⟩

/-- Settles O40: the rounds are the fifty frames that fail, and the way out logs `ReadFailed`. -/
theorem rdchanFailsAfterFiftyReads : Obligations.RdchanFailsAfterFiftyReads := by
  intro ch cs drdy pre bad bytes levels s hlive hmode hch hpre hlen hbad henv
  have hrounds : RoundsReturn s.params 0 (bad.map .atOnce) false 0xFFFFFFFF :=
    .of_atOnce (by rintro rfl; cases hlen) hlen.le (fun f hf => hbad f (List.mem_of_mem_dropLast hf))
      (fun f hf => ⟨hbad f (List.mem_of_getLast? hf), hlen, rfl⟩)
  rw [← hlen, List.append_assoc] at henv
  obtain ⟨t, hexec, hresult, hattempt, -, ⟨diags, hdiag⟩, hleft⟩ :=
    exec_rdchan_of_scripted cs drdy ⟨hlive, hmode⟩ hch hpre hrounds henv
  refine ⟨t, hexec, hresult, hattempt.trans hlen, ?_, hleft⟩
  rw [hdiag]
  exact List.getLast?_append_of_ne_nil _ (List.cons_ne_nil _ _)

/-! ### The phases an operation enters (R24, R167) -/

theorem phasePath_append {b : List Phase} {y z : Phase} (hb : phasePath y b z) :
    ∀ {a : List Phase} {x : Phase}, phasePath x a y → phasePath x (a ++ b) z
  | [], _, h => h ▸ hb
  | _ :: _, _, h => ⟨h.1, phasePath_append hb h.2⟩

/-- The read loop, from a phase that `Reading` may follow, goes by the table and back to `Idle`. -/
theorem phasePath_loopPhases (ok : Bool) : ∀ (n : Nat) (x : Phase), x.canStep .reading = true →
    phasePath x (loopPhases (n + 1) ok) .idle
  | 0, x, h => by
    cases ok with
    | true => exact ⟨h, rfl, rfl, rfl⟩
    | false => exact ⟨h, rfl, rfl, rfl, rfl⟩
  | n + 1, x, h => ⟨h, rfl, phasePath_loopPhases ok n .retrying rfl⟩

/-- From an idle sequencer the phases entered go by the table, and the sequencer is left idle. -/
def Sequenced (s t : State) : Prop :=
  s.engine.phase = .idle →
    t.engine.phase = .idle ∧ ∃ phs, t.phases = s.phases ++ phs ∧ phasePath .idle phs .idle

/-- No phase is entered. -/
theorem Sequenced.of_eq {s t : State} (hphase : t.engine.phase = s.engine.phase) (hphases : t.phases = s.phases) :
    Sequenced s t :=
  fun hidle => ⟨hphase.trans hidle, [], by simp [hphases], rfl⟩

theorem Sequenced.withEngine {s : State} (e : Engine) (he : e.phase = s.engine.phase) :
    Sequenced s (s.withEngine e) := .of_eq he rfl

theorem Performed.sequenced {s t : State} {evs : List Event} {e : Engine} {r : Result}
    (h : Performed s t evs e r) (he : e.phase = s.engine.phase) : Sequenced s t :=
  .of_eq (by rw [h.engine, he]) h.phases

theorem Sequenced.trans {s t u : State} (h : Sequenced s t) (k : Sequenced t u) : Sequenced s u := by
  intro hs
  obtain ⟨ht, a, ha, hpath⟩ := h hs
  obtain ⟨hu, b, hb, kpath⟩ := k ht
  exact ⟨hu, a ++ b, by rw [hb, ha, List.append_assoc], phasePath_append kpath hpath⟩

theorem Sequenced.finish {s t : State} (h : Sequenced s t) (r : Result) : Returns (t.finish r) (Sequenced s) :=
  returns_finish h

theorem sequenced_writeCommand (cmd : Byte) (cs : Pin) (s : State) : Sequenced s (writeCommand cmd cs s) := by
  obtain ⟨r0, h⟩ := writeCommand_performed cmd cs s
  exact h.sequenced rfl

theorem sequenced_writeRegister (reg data : Byte) (cs : Pin) (s : State) :
    Sequenced s (writeRegister reg data cs s) := by
  obtain ⟨r0, r1, r2, h⟩ := writeRegister_performed reg data cs s
  exact h.sequenced rfl

theorem sequenced_readRegister (reg : Byte) (cs : Pin) (s : State) :
    Sequenced s (readRegister reg cs s).2 := by
  obtain ⟨r0, r1, h⟩ := readRegister_performed reg cs s
  exact h.sequenced rfl

theorem sequenced_chipIdCheck (cs : Pin) (s : State) : Sequenced s (chipIdCheck cs s).2 := by
  obtain ⟨r0, r1, v, -, h⟩ := chipIdCheck_performed cs s
  exact h.sequenced rfl

theorem sequenced_waitReady (drdy : Pin) (s : State) : Sequenced s (waitReady drdy s) := by
  obtain ⟨w, -, h⟩ := waitReady_performed drdy s
  exact h.sequenced rfl

theorem sequenced_configure (delay rate : Byte) (cs : Pin) (s : State) :
    Sequenced s (configure delay rate cs s) := by
  obtain ⟨a, b, c, d, h⟩ := configure_performed delay rate cs s
  exact h.sequenced rfl

theorem sequenced_initDevice (rate : Byte) (cs : Pin) (s : State) : Sequenced s (initDevice rate cs s) := by
  obtain ⟨r0, r1, v, x, a, b, c, d, h⟩ := initDevice_performed rate cs s
  exact h.sequenced rfl

theorem sequenced_selectChannel (ch : Byte) (cs : Pin) (s : State) :
    Sequenced s (selectChannel ch cs s) := by
  cases hch : channelValid ch with
  | false =>
    rw [selectChannel_of_invalid hch]
    exact .of_eq rfl rfl
  | true =>
    obtain ⟨a, h⟩ := selectChannel_performed cs s hch
    exact h.sequenced rfl

theorem sequenced_framedRead (cs : Pin) (s : State) : Sequenced s (framedRead cs s).2 :=
  (framedRead_performed cs s).sequenced rfl

/-- The phases of a channel read: the selection, the conversion, the wait, and the read loop of one or more rounds. -/
theorem ChannelRead.sequenced {s t : State} {ch : Byte} {cs drdy : Pin} {v : Word}
    (h : ChannelRead s t ch cs drdy v) : Sequenced s t := by
  obtain ⟨x, a, y, rs, ok, hret, -, heng, hphases⟩ := h
  obtain ⟨n, hn⟩ := Nat.exists_eq_succ_of_ne_zero (mt List.eq_nil_of_length_eq_zero hret.nonempty)
  rw [hn, List.append_assoc] at hphases
  have hloop := phasePath_loopPhases ok n .waitingReady rfl
  exact fun _ => ⟨by rw [heng], _, hphases, show phasePath _ (_ :: _ :: _ :: _) _ from ⟨rfl, rfl, rfl, hloop⟩⟩

theorem sequenced_readChannel (ch : Byte) (cs drdy : Pin) (s : State) :
    Sequenced s (readChannel ch cs drdy s).2 := by
  cases hch : channelValid ch with
  | false =>
    rw [readChannel_of_invalid hch]
    exact .of_eq rfl rfl
  | true => exact (readChannel_ran cs drdy s hch).1.sequenced

theorem sequenced_scanLoop (cs drdy : Pin) (list : List Byte) :
    ∀ s : State, Sequenced s (scanLoop cs drdy list s) := by
  induction list with
  | nil => exact fun s => .of_eq rfl rfl
  | cons ch rest ih =>
    intro s
    rw [scanLoop_cons]
    exact ((sequenced_readChannel ch cs drdy s).trans
      (.withEngine ((readChannel ch cs drdy s).2.engine.push _) rfl)).trans (ih _)

theorem execSetmode_sequenced (mode : Byte) (s : State) : Returns (execSetmode mode s) (Sequenced s) := by
  refine returns_whenLive ?_
  cases scanModeOf mode with
  | none => exact returns_refused _ _
  | some m => exact (Sequenced.withEngine { s.engine with scanMode := m } rfl).finish .none

theorem execRdchans_sequenced (list : List Byte) (cs drdy : Pin) (s : State) :
    Returns (execRdchans list cs drdy s) (Sequenced s) := by
  have h := (sequenced_scanLoop cs drdy list (s.withEngine { s.engine with out := [], idx := 0 })).finish
    (.words (readChannels list cs drdy s).engine.out)
  refine returns_whenLive ?_
  cases list with
  | nil => exact h
  | cons ch rest => exact returns_whenSingleEnded h

/-- Every operation: its guards, then the phases its body enters, which only a channel read does. -/
theorem exec_sequenced (i : Instr) (s : State) : Returns (exec i s) (Sequenced s) := by
  cases i with
  | wcmd cmd cs => exact returns_whenLive ((sequenced_writeCommand cmd cs s).finish _)
  | wreg reg data cs => exact returns_whenLive ((sequenced_writeRegister reg data cs s).finish _)
  | rreg reg cs => exact returns_whenLive ((sequenced_readRegister reg cs s).finish _)
  | chksum value rx => exact returns_whenLive (returns_finish (.of_eq rfl rfl))
  | waitrdy drdy => exact returns_whenLive ((sequenced_waitReady drdy s).finish _)
  | chipid cs => exact returns_whenLive ((sequenced_chipIdCheck cs s).finish _)
  | config delay rate cs => exact returns_whenLive ((sequenced_configure delay rate cs s).finish _)
  | init rate cs => exact returns_whenLive ((sequenced_initDevice rate cs s).finish _)
  | setmode mode => exact execSetmode_sequenced mode s
  | selch ch cs => exact returns_whenLive ((sequenced_selectChannel ch cs s).finish _)
  | framerd cs => exact returns_whenLive ((sequenced_framedRead cs s).finish _)
  | rdchan ch cs drdy =>
    exact returns_whenLive (returns_whenSingleEnded ((sequenced_readChannel ch cs drdy s).finish _))
  | rdchans list cs drdy => exact execRdchans_sequenced list cs drdy s
  | resetdev rst => exact returns_whenLive (((resetPulse_performed rst s).sequenced rfl).finish _)
  | shutdown => exact returns_whenLive ((Sequenced.withEngine { s.engine with released := true } rfl).finish _)
  | reserved id => exact returns_whenLive (returns_refused _ _)
  | wireCmd cmd cs => exact returns_whenLive ((sequenced_writeCommand cmd cs s).finish _)
  | stop cs => exact returns_whenLive ((sequenced_writeCommand s.params.cmdStop cs s).finish _)
  | start cs => exact returns_whenLive ((sequenced_writeCommand s.params.cmdStart cs s).finish _)
  | wireWreg reg data cs => exact returns_whenLive ((sequenced_writeRegister reg data cs s).finish _)
  | wireRreg reg cs => exact returns_whenLive ((sequenced_readRegister reg cs s).finish _)
  | wireFrame cs => exact returns_whenLive ((sequenced_framedRead cs s).finish _)

/-- Settles O42: what `exec_sequenced` says of the state an operation returns. -/
theorem phasesFollowTransitionTable : Obligations.PhasesFollowTransitionTable :=
  fun i s t hidle hexec => exec_sequenced i s t hexec hidle

end Sys2Proof.Machine

/-! PROOFS of the family 45_orchestrator.md: the scan of a channel list (R180). -/

namespace Sys2Proof.Machine

/-! ### RDCHANS where no channel read is refused -/

/-- RDCHANS where no channel read is refused: the scan, and what it leaves in `E.out` as the result. -/
theorem exec_rdchans_of_canRead {s : State} (h : s.CanRead) (list : List Byte) (cs drdy : Pin) :
    exec (.rdchans list cs drdy) s =
      .next ((readChannels list cs drdy s).returning (.words (readChannels list cs drdy s).engine.out)) := by
  refine (whenLive_of_live h.1).trans ?_
  cases list with
  | nil => rfl
  | cons ch rest => exact whenSingleEnded_of h.2

/-- A scan from its start: one value per entry in `E.out`, their number in `E.idx`, and otherwise what the
channel reads write. -/
theorem readChannels_changes (list : List Byte) (cs drdy : Pin) (s : State) :
    ∃ (vs : List Word) (evs : List Event), vs.length = list.length ∧
      (∀ (k : Nat) (ch : Byte), list[k]? = some ch → channelValid ch = false → vs[k]? = some 0) ∧
      Ran s (readChannels list cs drdy s) evs ∧
      (readChannels list cs drdy s).engine =
        { s.engine with
          csHeld := (readChannels list cs drdy s).engine.csHeld
          phase := (readChannels list cs drdy s).engine.phase
          attempt := (readChannels list cs drdy s).engine.attempt
          poll := (readChannels list cs drdy s).engine.poll
          frame := (readChannels list cs drdy s).engine.frame
          diag := s.engine.diag ++ diagsOf evs
          out := vs
          idx := list.length } := by
  obtain ⟨vs, evs, hlen, hzero, hran, heng, -⟩ :=
    scanLoop_changes cs drdy list (s.withEngine { s.engine with out := [], idx := 0 })
  simp only [State.withEngine_engine, List.nil_append, Nat.zero_add] at heng
  exact ⟨vs, evs, hlen, hzero, (ran_withEngine s _).trans hran, heng⟩

theorem readChannels_idx (list : List Byte) (cs drdy : Pin) (s : State) :
    (readChannels list cs drdy s).engine.idx = list.length := by
  obtain ⟨vs, evs, -, -, -, heng⟩ := readChannels_changes list cs drdy s
  rw [heng]

/-- Channels can be read after a scan as before it. -/
theorem State.CanRead.readChannels {s : State} (h : s.CanRead) (list : List Byte) (cs drdy : Pin) :
    (readChannels list cs drdy s).CanRead := by
  obtain ⟨vs, evs, -, -, -, heng⟩ := readChannels_changes list cs drdy s
  rw [State.CanRead, heng]
  exact h

/-- Settles O43: what a scan changes, read off the state RDCHANS returns; the empty list is not scanned. -/
theorem rdchansReturnsOneValuePerChannel : Obligations.RdchansReturnsOneValuePerChannel := by
  refine ⟨?_, fun cs drdy s hlive => whenLive_of_live hlive⟩
  intro list cs drdy s hlive hmode
  obtain ⟨vs, evs, hlen, hzero, hran, heng⟩ := readChannels_changes list cs drdy s
  have hout : (readChannels list cs drdy s).engine.out = vs := by rw [heng]
  exact ⟨vs, evs, _, exec_rdchans_of_canRead ⟨hlive, hmode⟩ list cs drdy, congrArg Result.words hout,
    hlen, fun k ch hk hch => hzero k ch hk (channelValid_of_gt hch), hran.congr (ran_returning _ _), heng⟩

/-! ### A channel read does not look at the last result

Between two RDCHAN of a scan no result is noted, between two operations it is. A read from a state with
another result goes the same way and carries that result through (R14). -/

section

variable (s : State) (q : Result)

@[simp] theorem State.returning_withEngine (e : Engine) :
    (s.returning q).withEngine e = (s.withEngine e).returning q := rfl

@[simp] theorem State.returning_setPhase (ph : Phase) :
    (s.returning q).setPhase ph = (s.setPhase ph).returning q := rfl

@[simp] theorem State.returning_diagnose (d : Diag) :
    (s.returning q).diagnose d = (s.diagnose d).returning q := rfl

@[simp] theorem State.returning_pinRead (p : Pin) :
    (s.returning q).pinRead p = ((s.pinRead p).1, (s.pinRead p).2.returning q) := rfl

@[simp] theorem writeRegister_returning (reg data : Byte) (cs : Pin) :
    writeRegister reg data cs (s.returning q) = (writeRegister reg data cs s).returning q := rfl

@[simp] theorem readRegister_returning (reg : Byte) (cs : Pin) : readRegister reg cs (s.returning q) =
    ((readRegister reg cs s).1, (readRegister reg cs s).2.returning q) := rfl

@[simp] theorem stopConversions_returning (cs : Pin) :
    stopConversions cs (s.returning q) = (stopConversions cs s).returning q := rfl

@[simp] theorem startConversions_returning (cs : Pin) :
    startConversions cs (s.returning q) = (startConversions cs s).returning q := rfl

@[simp] theorem attemptRead_returning (cs : Pin) :
    attemptRead cs (s.returning q) = ((attemptRead cs s).1, (attemptRead cs s).2.returning q) := rfl

@[simp] theorem verifyRegister_returning (reg written : Byte) (cs : Pin) :
    verifyRegister reg written cs (s.returning q) = (verifyRegister reg written cs s).returning q := by
  by_cases hread : (readRegister reg cs s).1 = written <;> simp [verifyRegister, hread]

@[simp] theorem selectChannel_returning (ch : Byte) (cs : Pin) :
    selectChannel ch cs (s.returning q) = (selectChannel ch cs s).returning q := by
  cases hch : channelValid ch with
  | false => rw [selectChannel_of_invalid hch, selectChannel_of_invalid hch]
  | true => simp [selectChannel, hch]

end

@[simp] theorem pollLoop_returning (drdy : Pin) (q : Result) (rounds : Nat) :
    ∀ s : State, pollLoop drdy rounds (s.returning q) = (pollLoop drdy rounds s).returning q := by
  induction rounds with
  | zero => exact fun s => rfl
  | succ rounds ih =>
    intro s
    simp only [pollLoop, State.returning_pinRead]
    cases (s.pinRead drdy).1 with
    | low => rfl
    | high =>
      simp only [State.returning_engine, State.returning_withEngine, State.returning_params,
        State.returning_diagnose, ih]
      split <;> rfl

@[simp] theorem waitReady_returning (drdy : Pin) (q : Result) (s : State) :
    waitReady drdy (s.returning q) = (waitReady drdy s).returning q := by
  simp [waitReady]

@[simp] theorem retryLoop_returning (ch : Byte) (cs drdy : Pin) (q : Result) (rounds : Nat) :
    ∀ s : State, retryLoop ch cs drdy rounds (s.returning q) =
      ((retryLoop ch cs drdy rounds s).1, (retryLoop ch cs drdy rounds s).2.returning q) := by
  induction rounds with
  | zero => exact fun s => rfl
  | succ rounds ih =>
    intro s
    simp only [retryLoop, attemptRead_returning, State.returning_engine, State.returning_setPhase,
      State.returning_diagnose, waitReady_returning, ih]
    split_ifs <;> rfl

@[simp] theorem readChannel_returning (ch : Byte) (cs drdy : Pin) (q : Result) (s : State) :
    readChannel ch cs drdy (s.returning q) =
      ((readChannel ch cs drdy s).1, (readChannel ch cs drdy s).2.returning q) := by
  cases hch : channelValid ch with
  | false => simp [readChannel_of_invalid hch]
  | true => simp [readChannel, hch, convertAndRead]

/-! ### One channel more -/

/-- A scan of one channel more is the scan, a read of that channel from there, and its value kept (R180). -/
theorem readChannels_concat (list : List Byte) (ch : Byte) (cs drdy : Pin) (s : State) :
    readChannels (list ++ [ch]) cs drdy s =
      (readChannel ch cs drdy (readChannels list cs drdy s)).2.withEngine
        ((readChannel ch cs drdy (readChannels list cs drdy s)).2.engine.push
          (readChannel ch cs drdy (readChannels list cs drdy s)).1) :=
  scanLoop_append cs drdy list [ch] _

/-- A channel read leaves `E.out` and `E.idx` alone, and so its value comes next in them (R27). -/
theorem readChannel_engine_push (ch : Byte) (cs drdy : Pin) (s : State) (v : Word) :
    (readChannel ch cs drdy s).2.engine.push v =
      { (readChannel ch cs drdy s).2.engine with
        out := s.engine.out ++ [v], idx := s.engine.idx + 1 } := by
  obtain ⟨evs, -, heng, -⟩ := readChannel_changes ch cs drdy s
  rw [Engine.push, heng]

/-- Settles O44: the values are those the shorter scan leaves in `E.out`, and the RDCHAN is the longer scan's
last read, made from a state with the shorter one's result. -/
theorem rdchansIsRepeatedRdchan : Obligations.RdchansIsRepeatedRdchan := by
  intro list ch cs drdy s hlive hmode
  have hs : s.CanRead := ⟨hlive, hmode⟩
  have ht : ((readChannels list cs drdy s).returning
      (.words (readChannels list cs drdy s).engine.out)).CanRead := hs.readChannels list cs drdy
  refine ⟨_, _, _, _, exec_rdchans_of_canRead hs list cs drdy, rfl,
    exec_rdchan_of_canRead ht ch cs drdy, rfl, ?_⟩
  rw [exec_rdchans_of_canRead hs, readChannels_concat, readChannel_engine_push, readChannels_idx,
    readChannel_returning]
  rfl

end Sys2Proof.Machine

/-! PROOFS of the family 60_exceptions.md: which operations are refused and that all others return (R14, R190, R196),
and the pins no operation touches (R113, R147, R204). -/

namespace Sys2Proof.Machine

/-! ### Refused as listed, or returned (R196) -/

/-- The outcome is the refusal that is listed, and a next state where none is. -/
inductive RefusedAs : Option Refusal → Host.Outcome State Fault Refusal → Prop
  | next (t : State) : RefusedAs none (.next t)
  | refused (r : Refusal) : RefusedAs (some r) (.refused r)

theorem RefusedAs.finish (t : State) (r : Result) : RefusedAs none (t.finish r) := .next _

/-- `Released` comes before whatever else is listed (R31). -/
theorem RefusedAs.whenLive {s : State} {r : Option Refusal} {k : Host.Outcome State Fault Refusal}
    (h : RefusedAs r k) : RefusedAs (if s.engine.released then some .released else r) (s.whenLive k) := by
  unfold State.whenLive
  split
  · exact .refused _
  · exact h

theorem RefusedAs.whenSingleEnded {s : State} {k : Host.Outcome State Fault Refusal} (h : RefusedAs none k) :
    RefusedAs (if s.engine.scanMode = .differential then some .unsupportedMode else none)
      (s.whenSingleEnded k) := by
  cases hmode : s.engine.scanMode with
  | singleEnded => simpa [whenSingleEnded_of hmode] using h
  | differential => simpa [whenSingleEnded_of_differential hmode] using RefusedAs.refused .unsupportedMode

/-- An operand byte up to 1 names a scan mode (R88, R146). -/
theorem exists_scanModeOf_of_le_one {mode : Byte} (h : mode.toNat ≤ 1) : ∃ m, scanModeOf mode = some m := by
  rcases Nat.le_one_iff_eq_zero_or_eq_one.1 h with h0 | h1
  · exact ⟨.singleEnded, by simp [scanModeOf, h0]⟩
  · exact ⟨.differential, by simp [scanModeOf, h1]⟩

theorem execSetmode_refusedAs (mode : Byte) (s : State) :
    RefusedAs (refusalOf (.setmode mode) s) (execSetmode mode s) := by
  refine .whenLive ?_
  dsimp only
  by_cases hmode : 1 < mode.toNat
  · rw [if_pos hmode, scanModeOf_of_two_le hmode]
    exact .refused _
  · obtain ⟨m, hm⟩ := exists_scanModeOf_of_le_one (Nat.not_lt.1 hmode)
    rw [if_neg hmode, hm]
    exact .finish _ _

theorem execRdchans_refusedAs (list : List Byte) (cs drdy : Pin) (s : State) :
    RefusedAs (refusalOf (.rdchans list cs drdy) s) (execRdchans list cs drdy s) := by
  refine .whenLive ?_
  cases list with
  | nil => simpa using RefusedAs.finish _ _
  | cons ch rest => simpa using RefusedAs.whenSingleEnded (.finish _ _)

/-- Every operation: its guards are those listed for it, and behind them it returns. -/
theorem exec_refusedAs (i : Instr) (s : State) : RefusedAs (refusalOf i s) (exec i s) := by
  cases i with
  | setmode mode => exact execSetmode_refusedAs mode s
  | rdchan ch cs drdy => exact .whenLive (.whenSingleEnded (.finish _ _))
  | rdchans list cs drdy => exact execRdchans_refusedAs list cs drdy s
  | reserved id => exact .whenLive (.refused _)
  | _ => exact .whenLive (.finish _ _)

/-- Settles O46: the two clauses are the two cases of `exec_refusedAs`. -/
theorem refusedExactlyWhereListed : Obligations.RefusedExactlyWhereListed := by
  intro i s
  have h := exec_refusedAs i s
  generalize refusalOf i s = r, exec i s = o at h ⊢
  cases h with
  | next t => exact ⟨nofun, fun _ => ⟨t, rfl⟩⟩
  | refused r => exact ⟨fun _ hr => congrArg _ (Option.some.inj hr), nofun⟩

/-! ### The pins an operation touches (R113, R147, R204) -/

/-- The event configures no pin, and if it writes a line, one of these. -/
def Event.StaysOn (L : List Pin) : Event → Prop
  | .cfg _ _ => False
  | .wr q _ => q ∈ L
  | .rd _ _ => True
  | .xfer _ _ => True
  | .dly _ => True
  | .dg _ => True

/-- The events touch no pins but these. -/
def StayOn (L : List Pin) (evs : List Event) : Prop := ∀ ev ∈ evs, ev.StaysOn L

/-- What a single event leaves of the pins. -/
theorem Pins.apply_of_staysOn {L : List Pin} {ev : Event} (h : ev.StaysOn L) (s : Pins) :
    (s.apply ev).dir = s.dir ∧
      ∀ q : Pin, q ∉ L → Table.get (s.apply ev).out q.toNat = Table.get s.out q.toNat := by
  cases ev with
  | cfg p d => exact h.elim
  | wr p l =>
    refine ⟨rfl, fun q hq => Table.get_set_of_ne _ _ fun heq => hq ?_⟩
    rwa [BitVec.eq_of_toNat_eq heq]
  | rd p l => exact ⟨rfl, fun _ _ => rfl⟩
  | xfer b r => exact ⟨rfl, fun _ _ => rfl⟩
  | dly ms => exact ⟨rfl, fun _ _ => rfl⟩
  | dg d => exact ⟨rfl, fun _ _ => rfl⟩

/-- The directions, and the levels of all other pins, are left as they are. -/
theorem StayOn.pins_unchanged {L : List Pin} {evs : List Event} (h : StayOn L evs) :
    ∀ s : Pins, (s.applyAll evs).dir = s.dir ∧
      ∀ q : Pin, q ∉ L → Table.get (s.applyAll evs).out q.toNat = Table.get s.out q.toNat := by
  induction evs with
  | nil => exact fun s => ⟨rfl, fun _ _ => rfl⟩
  | cons ev evs ih =>
    intro s
    obtain ⟨hev, hevs⟩ := List.forall_mem_cons.1 h
    obtain ⟨hdir, hout⟩ := Pins.apply_of_staysOn hev s
    obtain ⟨hdirs, houts⟩ := ih hevs (s.apply ev)
    exact ⟨hdirs.trans hdir, fun q hq => (houts q hq).trans (hout q hq)⟩

namespace StayOn

variable {L : List Pin}

theorem nil : StayOn L [] := nofun
theorem rd (q : Pin) (l : Level) : StayOn L [.rd q l] := List.forall_mem_singleton.2 trivial
theorem dly (ms : Nat) : StayOn L [.dly ms] := List.forall_mem_singleton.2 trivial
theorem dg (d : Diag) : StayOn L [.dg d] := List.forall_mem_singleton.2 trivial
theorem wr (q : Pin) (l : Level) : StayOn [q] [.wr q l] := List.forall_mem_singleton.2 (.head _)

theorem append {a b : List Event} (ha : StayOn L a) (hb : StayOn L b) : StayOn L (a ++ b) :=
  List.forall_mem_append.2 ⟨ha, hb⟩

/-! The events of the engine's sequences. -/

theorem window (cs : Pin) (xs : List (Byte × Byte)) : StayOn [cs] (windowEvents cs xs) := by
  have htransfers : StayOn [cs] (xs.map fun x => .xfer x.1 x.2) := List.forall_mem_map.2 fun _ _ => trivial
  exact ((wr cs .low).append htransfers).append (wr cs .high)

theorem mismatch (cs : Pin) (reg written readback : Byte) :
    StayOn L (mismatchEvents cs reg written readback) := by
  unfold mismatchEvents
  split
  · exact nil
  · exact dg _

theorem wait (drdy : Pin) (w : Wait) : StayOn L (waitEvents drdy w) := by
  refine append (fun ev hev => ?_) ?_
  · rw [List.eq_of_mem_replicate hev]
    trivial
  · split
    · exact dg _
    · exact rd _ _

section

variable {p : Params} (cs : Pin)

theorem identity (r0 r1 v : Byte) : StayOn [cs] (identityEvents p cs r0 r1 v) :=
  (window cs _).append (dg _)

theorem configStep (reg val : Byte) (a : WriteBack) : StayOn [cs] (configStepEvents p cs reg val a) :=
  (((window cs _).append (dly 5)).append (window cs _)).append (mismatch cs reg val _)

theorem configure (delay rate : Byte) (a b c d : WriteBack) :
    StayOn [cs] (configEvents p cs delay rate a b c d) :=
  (((configStep cs _ _ a).append (configStep cs _ _ b)).append (configStep cs _ _ c)).append (configStep cs _ _ d)

theorem select (ch : Byte) (a : WriteBack) : StayOn [cs] (selectEvents p cs ch a) :=
  ((window cs _).append (window cs _)).append (mismatch cs _ _ _)

theorem rounds (ch : Byte) (drdy : Pin) (rs : List ReadRound) :
    ∀ n, StayOn [cs] (roundsEvents cs ch drdy n rs) := by
  induction rs with
  | nil => exact fun n => nil
  | cons r rest ih =>
    intro n
    refine (((wait drdy r.wait).append (window cs _)).append ?_).append (ih (n + 1))
    split
    · exact nil
    · exact dg _

theorem channel (ch : Byte) (drdy : Pin) (x : Byte) (a : WriteBack) (y : Byte) (rs : List ReadRound) (ok : Bool) :
    StayOn [cs] (channelEvents p cs ch drdy x a y rs ok) := by
  refine ((((window cs _).append (select cs ch a)).append (window cs _)).append (rounds cs ch drdy rs 0)).append ?_
  cases ok with
  | true => exact nil
  | false => exact dg _

end

theorem resetPulse (rst : Pin) (ms : Nat) :
    StayOn [rst] [.wr rst .high, .dly ms, .wr rst .low, .dly ms, .wr rst .high, .dly ms] :=
  (((((wr rst .high).append (dly ms)).append (wr rst .low)).append (dly ms)).append (wr rst .high)).append (dly ms)

end StayOn

/-- `t` is left from `s` by events that touch no pins but these. -/
def Touches (L : List Pin) (s t : State) : Prop := ∃ evs, Ran s t evs ∧ StayOn L evs

section

variable {L : List Pin}

theorem Performed.touches {s t : State} {evs : List Event} {e : Engine} {r : Result}
    (h : Performed s t evs e r) (hevs : StayOn L evs) : Touches L s t := ⟨evs, h.ran, hevs⟩

theorem Touches.refl (s : State) : Touches L s s := ⟨[], Ran.refl s, .nil⟩

theorem Touches.withEngine (s : State) (e : Engine) : Touches L s (s.withEngine e) :=
  ⟨[], ran_withEngine s e, .nil⟩

theorem Touches.trans {s t u : State} (h : Touches L s t) (k : Touches L t u) : Touches L s u := by
  obtain ⟨a, hran, ha⟩ := h
  obtain ⟨b, kran, hb⟩ := k
  exact ⟨a ++ b, hran.trans kran, ha.append hb⟩

theorem Touches.finish {s t : State} (h : Touches L s t) (r : Result) : Returns (t.finish r) (Touches L s) := by
  obtain ⟨evs, hran, hevs⟩ := h
  exact returns_finish ⟨evs, hran.congr (ran_returning t r), hevs⟩

end

section

variable (cs : Pin)

theorem touches_writeCommand (cmd : Byte) (s : State) : Touches [cs] s (writeCommand cmd cs s) := by
  obtain ⟨r0, h⟩ := writeCommand_performed cmd cs s
  exact h.touches (.window cs _)

theorem touches_writeRegister (reg data : Byte) (s : State) : Touches [cs] s (writeRegister reg data cs s) := by
  obtain ⟨r0, r1, r2, h⟩ := writeRegister_performed reg data cs s
  exact h.touches (.window cs _)

theorem touches_readRegister (reg : Byte) (s : State) : Touches [cs] s (readRegister reg cs s).2 := by
  obtain ⟨r0, r1, h⟩ := readRegister_performed reg cs s
  exact h.touches (.window cs _)

theorem touches_chipIdCheck (s : State) : Touches [cs] s (chipIdCheck cs s).2 := by
  obtain ⟨r0, r1, v, -, h⟩ := chipIdCheck_performed cs s
  exact h.touches (.identity cs r0 r1 v)

theorem touches_configure (delay rate : Byte) (s : State) : Touches [cs] s (configure delay rate cs s) := by
  obtain ⟨a, b, c, d, h⟩ := configure_performed delay rate cs s
  exact h.touches (.configure cs delay rate a b c d)

theorem touches_initDevice (rate : Byte) (s : State) : Touches [cs] s (initDevice rate cs s) := by
  obtain ⟨r0, r1, v, x, a, b, c, d, h⟩ := initDevice_performed rate cs s
  exact h.touches (((StayOn.identity cs r0 r1 v).append (.window cs _)).append (.configure cs _ _ a b c d))

theorem touches_selectChannel (ch : Byte) (s : State) : Touches [cs] s (selectChannel ch cs s) := by
  cases hch : channelValid ch with
  | false =>
    rw [selectChannel_of_invalid hch]
    exact .refl s
  | true =>
    obtain ⟨a, h⟩ := selectChannel_performed cs s hch
    exact h.touches (.select cs ch a)

theorem touches_framedRead (s : State) : Touches [cs] s (framedRead cs s).2 :=
  (framedRead_performed cs s).touches (.window cs _)

theorem touches_readChannel (ch : Byte) (drdy : Pin) (s : State) : Touches [cs] s (readChannel ch cs drdy s).2 := by
  cases hch : channelValid ch with
  | false =>
    rw [readChannel_of_invalid hch]
    exact touches_writeCommand cs _ s
  | true =>
    obtain ⟨⟨x, a, y, rs, ok, -, hran, -⟩, -⟩ := readChannel_ran cs drdy s hch
    exact ⟨_, hran, .channel cs ch drdy x a y rs ok⟩

theorem touches_scanLoop (drdy : Pin) (list : List Byte) :
    ∀ s : State, Touches [cs] s (scanLoop cs drdy list s) := by
  induction list with
  | nil => exact fun s => .refl s
  | cons ch rest ih =>
    intro s
    exact ((touches_readChannel cs ch drdy s).trans (.withEngine _ _)).trans (ih _)

theorem execRdchans_touches (list : List Byte) (drdy : Pin) (s : State) :
    Returns (execRdchans list cs drdy s) (Touches [cs] s) := by
  have h := ((Touches.withEngine s { s.engine with out := [], idx := 0 }).trans
    (touches_scanLoop cs drdy list _)).finish (.words (readChannels list cs drdy s).engine.out)
  refine returns_whenLive ?_
  cases list with
  | nil => exact h
  | cons ch rest => exact returns_whenSingleEnded h

end

theorem touches_waitReady (L : List Pin) (drdy : Pin) (s : State) : Touches L s (waitReady drdy s) := by
  obtain ⟨w, -, h⟩ := waitReady_performed drdy s
  exact h.touches (.wait drdy w)

theorem execSetmode_touches (L : List Pin) (mode : Byte) (s : State) :
    Returns (execSetmode mode s) (Touches L s) := by
  refine returns_whenLive ?_
  cases scanModeOf mode with
  | none => exact returns_refused _ _
  | some m => exact (Touches.withEngine s { s.engine with scanMode := m }).finish .none

/-- Every operation: its guards, then its body's events, which stay on its line. -/
theorem exec_touches (i : Instr) (s : State) : Returns (exec i s) (Touches (writtenPins i) s) := by
  cases i with
  | wcmd cmd cs => exact returns_whenLive ((touches_writeCommand cs cmd s).finish _)
  | wreg reg data cs => exact returns_whenLive ((touches_writeRegister cs reg data s).finish _)
  | rreg reg cs => exact returns_whenLive ((touches_readRegister cs reg s).finish _)
  | chksum value rx => exact returns_whenLive ((Touches.refl s).finish _)
  | waitrdy drdy => exact returns_whenLive ((touches_waitReady _ drdy s).finish _)
  | chipid cs => exact returns_whenLive ((touches_chipIdCheck cs s).finish _)
  | config delay rate cs => exact returns_whenLive ((touches_configure cs delay rate s).finish _)
  | init rate cs => exact returns_whenLive ((touches_initDevice cs rate s).finish _)
  | setmode mode => exact execSetmode_touches _ mode s
  | selch ch cs => exact returns_whenLive ((touches_selectChannel cs ch s).finish _)
  | framerd cs => exact returns_whenLive ((touches_framedRead cs s).finish _)
  | rdchan ch cs drdy =>
    exact returns_whenLive (returns_whenSingleEnded ((touches_readChannel cs ch drdy s).finish _))
  | rdchans list cs drdy => exact execRdchans_touches cs list drdy s
  | resetdev rst =>
    exact returns_whenLive (((resetPulse_performed rst s).touches (.resetPulse rst _)).finish _)
  | shutdown => exact returns_whenLive ((Touches.withEngine s { s.engine with released := true }).finish _)
  | reserved id => exact returns_whenLive (returns_refused _ _)
  | wireCmd cmd cs => exact returns_whenLive ((touches_writeCommand cs cmd s).finish _)
  | stop cs => exact returns_whenLive ((touches_writeCommand cs s.params.cmdStop s).finish _)
  | start cs => exact returns_whenLive ((touches_writeCommand cs s.params.cmdStart s).finish _)
  | wireWreg reg data cs => exact returns_whenLive ((touches_writeRegister cs reg data s).finish _)
  | wireRreg reg cs => exact returns_whenLive ((touches_readRegister cs reg s).finish _)
  | wireFrame cs => exact returns_whenLive ((touches_framedRead cs s).finish _)

/-- Settles O49: the pins an operation leaves are those its events leave, which stay on its line. -/
theorem operationsWriteOnlyTheirLine : Obligations.OperationsWriteOnlyTheirLine := by
  intro i s t hexec
  obtain ⟨evs, hran, hevs⟩ := exec_touches i s t hexec
  rw [hran.pins]
  exact hevs.pins_unchanged s.pins

end Sys2Proof.Machine

/-! PROOFS of the family 70_reset_and_hazards.md: engine reset and what the bring-up leaves of the pins (R220, R221,
R32), and the number of events of an operation of fixed shape (R245). -/

namespace Sys2Proof.Machine

/-! ### The step that takes engine reset (R220) -/

theorem State.fetch_of_reset {s : State} (h : s.resetIn = true) : s.fetch = .reset := by
  simp [State.fetch, h]

/-- Settles O9: the step takes the reset, and `engineReset_eq` gives its fields. -/
theorem stepTakesEngineReset : Obligations.StepTakesEngineReset := by
  rintro s _ hreset rfl
  refine ⟨s.engineReset, by rw [step, State.fetch_of_reset hreset], ?_⟩
  rw [engineReset_eq]
  exact ⟨rfl, rfl, rfl, rfl, rfl, rfl, rfl, rfl, rfl, rfl, rfl⟩

/-! ### What the bring-up leaves of the pins (R32, R221) -/

/-- What one event among these brings about and none of them undoes holds after them all. -/
theorem Pins.applyAll_of_mem {P : Pins → Prop} {evs : List Event} {ev : Event} (hmem : ev ∈ evs)
    (hset : ∀ s : Pins, P (s.apply ev)) (hkeep : ∀ e ∈ evs, ∀ s : Pins, P s → P (s.apply e)) (s : Pins) :
    P (s.applyAll evs) := by
  obtain ⟨a, b, rfl⟩ := List.append_of_mem hmem
  rw [Pins.applyAll_append, Pins.applyAll_cons]
  exact List.foldlRecOn b Pins.apply (hset _) fun t ht e he => hkeep e (by simp [he]) t ht

/-- A write keeps what is read at `j` unless it puts another value there. -/
theorem Table.get_set_keeps {α : Type} {t : Table α} {k j : Nat} {v w : α} (h : Table.get t j = some w)
    (hv : k = j → v = w) : Table.get (Table.set t k v) j = some w := by
  rw [Table.get_set]
  split
  case isTrue hkj => rw [hv hkj]
  case isFalse => exact h

/-- A line stands at the one level that is written to it. -/
theorem Pins.get_out_applyAll {evs : List Event} {q : Pin} {l : Level} (hmem : .wr q l ∈ evs)
    (honly : ∀ m, .wr q m ∈ evs → m = l) (s : Pins) : Table.get (s.applyAll evs).out q.toNat = some l := by
  refine Pins.applyAll_of_mem (P := fun u => Table.get u.out q.toNat = some l) hmem
    (fun u => Table.get_set_self _ _ _) (fun e he u hu => ?_) s
  cases e with
  | wr p m => exact Table.get_set_keeps hu fun hp => honly m (BitVec.eq_of_toNat_eq hp ▸ he)
  | _ => exact hu

/-- A pin has the one direction it is configured to. -/
theorem Pins.get_dir_applyAll {evs : List Event} {q : Pin} {d : Dir} (hmem : .cfg q d ∈ evs)
    (honly : ∀ c, .cfg q c ∈ evs → c = d) (s : Pins) : Table.get (s.applyAll evs).dir q.toNat = some d := by
  refine Pins.applyAll_of_mem (P := fun u => Table.get u.dir q.toNat = some d) hmem
    (fun u => Table.get_set_self _ _ _) (fun e he u hu => ?_) s
  cases e with
  | cfg p c => exact Table.get_set_keeps hu fun hp => honly c (BitVec.eq_of_toNat_eq hp ▸ he)
  | _ => exact hu

/-- The lines the bring-up writes, all high. -/
theorem wr_mem_bringUpEvents {pinmap : List DevicePins} {q : Pin} {l : Level} :
    .wr q l ∈ bringUpEvents pinmap ↔ ∃ e ∈ pinmap, (q = e.cs ∨ q = e.rst) ∧ l = .high := by
  simp [bringUpEvents, bringUpDevice, or_and_right]

/-- The pins the bring-up configures. -/
theorem cfg_mem_bringUpEvents {pinmap : List DevicePins} {q : Pin} {d : Dir} :
    .cfg q d ∈ bringUpEvents pinmap ↔
      ∃ e ∈ pinmap, (q = e.rst ∨ q = e.cs) ∧ d = .output ∨ q = e.drdy ∧ d = .input := by
  simp [bringUpEvents, bringUpDevice, or_and_right, or_assoc]

section

variable {pinmap : List DevicePins} {e : DevicePins} {q : Pin} (he : e ∈ pinmap) (s : Pins)

include he

/-- R221: a chip-select or reset line is left high. -/
theorem bringUp_leaves_high (hq : q = e.cs ∨ q = e.rst) :
    Table.get (s.applyAll (bringUpEvents pinmap)).out q.toNat = some .high := by
  refine Pins.get_out_applyAll (wr_mem_bringUpEvents.2 ⟨e, he, hq, rfl⟩) (fun m hm => ?_) s
  obtain ⟨-, -, -, hhigh⟩ := wr_mem_bringUpEvents.1 hm
  exact hhigh

/-- R221: a chip-select or reset line that no device has for its data-ready line is left an output. -/
theorem bringUp_leaves_output (hq : q = e.rst ∨ q = e.cs) (hne : ∀ f ∈ pinmap, f.drdy ≠ q) :
    Table.get (s.applyAll (bringUpEvents pinmap)).dir q.toNat = some .output := by
  refine Pins.get_dir_applyAll (cfg_mem_bringUpEvents.2 ⟨e, he, .inl ⟨hq, rfl⟩⟩) (fun c hc => ?_) s
  obtain ⟨f, hf, ⟨-, hout⟩ | ⟨hdrdy, -⟩⟩ := cfg_mem_bringUpEvents.1 hc
  · exact hout
  · exact absurd hdrdy.symm (hne f hf)

/-- R221: a data-ready line that no device has for another line is left an input. -/
theorem bringUp_leaves_input (hne : ∀ f ∈ pinmap, f.cs ≠ e.drdy ∧ f.rst ≠ e.drdy) :
    Table.get (s.applyAll (bringUpEvents pinmap)).dir e.drdy.toNat = some .input := by
  refine Pins.get_dir_applyAll (cfg_mem_bringUpEvents.2 ⟨e, he, .inr ⟨rfl, rfl⟩⟩) (fun c hc => ?_) s
  obtain ⟨f, hf, ⟨hrst | hcs, -⟩ | ⟨-, hin⟩⟩ := cfg_mem_bringUpEvents.1 hc
  · exact absurd hrst.symm (hne f hf).2
  · exact absurd hcs.symm (hne f hf).1
  · exact hin

end

/-- Settles O11: the pins after reset are those the bring-up events leave. -/
theorem bringUpSetsIdleLevels : Obligations.BringUpSetsIdleLevels := fun _ _ hd =>
  ⟨bringUp_leaves_high hd _ (.inl rfl), bringUp_leaves_high hd _ (.inr rfl),
    bringUp_leaves_output hd _ (.inr rfl), bringUp_leaves_output hd _ (.inl rfl), bringUp_leaves_input hd _⟩

/-! ### The number of events (R245) -/

@[simp] theorem length_windowEvents (cs : Pin) (bytes : List (Byte × Byte)) :
    (windowEvents cs bytes).length = bytes.length + 2 := by
  simp [windowEvents]

/-- A read-back logs at most one diagnostic (R142, R160). -/
theorem length_mismatchEvents_le (cs : Pin) (reg written readback : Byte) :
    (mismatchEvents cs reg written readback).length ≤ 1 := by
  unfold mismatchEvents
  split <;> simp

/-- A write, a delay, a read-back, and perhaps a diagnostic (R142). -/
theorem length_configStepEvents (p : Params) (cs : Pin) (reg val : Byte) (a : WriteBack) :
    (configStepEvents p cs reg val a).length = 11 + (mismatchEvents cs reg val a.readback).length := by
  simp [configStepEvents, writeEvents, readEvents]
  omega

/-- Four steps of eleven or twelve events (R142). -/
theorem length_configEvents (p : Params) (cs : Pin) (delay rate : Byte) (a b c d : WriteBack) :
    44 ≤ (configEvents p cs delay rate a b c d).length ∧ (configEvents p cs delay rate a b c d).length ≤ 48 := by
  have ha := length_mismatchEvents_le cs p.regMode2 p.mode2Value a.readback
  have hb := length_mismatchEvents_le cs p.regRefmux p.refmuxValue b.readback
  have hc := length_mismatchEvents_le cs p.regMode0 delay c.readback
  have hd := length_mismatchEvents_le cs p.regMode1 rate d.readback
  simp only [configEvents, List.length_append, length_configStepEvents]
  omega

@[simp] theorem length_identityEvents (p : Params) (cs : Pin) (r0 r1 v : Byte) :
    (identityEvents p cs r0 r1 v).length = 6 := by
  simp [identityEvents, readEvents]

/-- A write, a read-back, and perhaps a diagnostic (R160). -/
theorem length_selectEvents (p : Params) (cs : Pin) (ch : Byte) (a : WriteBack) :
    10 ≤ (selectEvents p cs ch a).length ∧ (selectEvents p cs ch a).length ≤ 11 := by
  have h := length_mismatchEvents_le cs p.regInpmux ((ch <<< 4) ||| 0x0A) a.readback
  simp only [selectEvents, writeEvents, readEvents, List.length_append, length_windowEvents, List.length_cons,
    List.length_nil]
  omega

/-- The high polls, and the event that ends the wait (R130). -/
theorem length_waitEvents (drdy : Pin) (w : Wait) : (waitEvents drdy w).length = w.highs + 1 := by
  unfold waitEvents
  split <;> simp

/-- `t` is left from `s` by at least so many events and at most so many. -/
def Emits (least most : Nat) (s t : State) : Prop :=
  ∃ evs, Ran s t evs ∧ least ≤ evs.length ∧ evs.length ≤ most

theorem Emits.finish {least most : Nat} {s t : State} (h : Emits least most s t) (r : Result) :
    Returns (t.finish r) (Emits least most s) := by
  obtain ⟨evs, hran, hlen⟩ := h
  exact returns_finish ⟨evs, hran.congr (ran_returning t r), hlen⟩

theorem Performed.emits {s t : State} {evs : List Event} {e : Engine} {r : Result} {n : Nat}
    (h : Performed s t evs e r) (hn : evs.length = n) : Emits n n s t :=
  ⟨evs, h.ran, hn.ge, hn.le⟩

theorem Emits.refl (s : State) : Emits 0 0 s s := ⟨[], Ran.refl s, le_rfl, le_rfl⟩

theorem Emits.withEngine (s : State) (e : Engine) : Emits 0 0 s (s.withEngine e) :=
  ⟨[], ran_withEngine s e, le_rfl, le_rfl⟩

theorem emits_writeCommand (cmd : Byte) (cs : Pin) (s : State) : Emits 3 3 s (writeCommand cmd cs s) := by
  obtain ⟨r0, h⟩ := writeCommand_performed cmd cs s
  exact h.emits (length_windowEvents cs _)

theorem emits_writeRegister (reg data : Byte) (cs : Pin) (s : State) :
    Emits 5 5 s (writeRegister reg data cs s) := by
  obtain ⟨r0, r1, r2, h⟩ := writeRegister_performed reg data cs s
  exact h.emits (length_windowEvents cs _)

theorem emits_readRegister (reg : Byte) (cs : Pin) (s : State) : Emits 5 5 s (readRegister reg cs s).2 := by
  obtain ⟨r0, r1, h⟩ := readRegister_performed reg cs s
  exact h.emits (length_windowEvents cs _)

theorem emits_waitReady (drdy : Pin) (s : State) : Emits 1 (pollBound s.params + 1) s (waitReady drdy s) := by
  obtain ⟨w, hallowed, h⟩ := waitReady_performed drdy s
  refine ⟨_, h.ran, ?_⟩
  rw [length_waitEvents]
  exact ⟨Nat.le_add_left 1 _, Nat.succ_le_succ hallowed.highs_le⟩

theorem emits_chipIdCheck (cs : Pin) (s : State) : Emits 6 6 s (chipIdCheck cs s).2 := by
  obtain ⟨r0, r1, v, -, h⟩ := chipIdCheck_performed cs s
  exact h.emits (length_identityEvents _ cs r0 r1 v)

theorem emits_configure (delay rate : Byte) (cs : Pin) (s : State) :
    Emits 44 48 s (configure delay rate cs s) := by
  obtain ⟨a, b, c, d, h⟩ := configure_performed delay rate cs s
  exact ⟨_, h.ran, length_configEvents _ cs delay rate a b c d⟩

/-- The identity check, the stop window and the configuration (R145). -/
theorem emits_initDevice (rate : Byte) (cs : Pin) (s : State) : Emits 53 57 s (initDevice rate cs s) := by
  obtain ⟨r0, r1, v, x, a, b, c, d, h⟩ := initDevice_performed rate cs s
  have hconfig := length_configEvents s.params cs s.params.delay35us rate a b c d
  refine ⟨_, h.ran, ?_⟩
  simp only [List.length_append, length_identityEvents, length_windowEvents, List.length_cons, List.length_nil]
  omega

theorem emits_selectChannel {ch : Byte} (hch : channelValid ch = true) (cs : Pin) (s : State) :
    Emits 10 11 s (selectChannel ch cs s) := by
  obtain ⟨a, h⟩ := selectChannel_performed cs s hch
  exact ⟨_, h.ran, length_selectEvents _ cs ch a⟩

theorem emits_framedRead (cs : Pin) (s : State) : Emits 8 8 s (framedRead cs s).2 :=
  (framedRead_performed cs s).emits (length_windowEvents cs _)

theorem execSetmode_emits (mode : Byte) (s : State) : Returns (execSetmode mode s) (Emits 0 0 s) := by
  refine returns_whenLive ?_
  cases scanModeOf mode with
  | none => exact returns_refused _ _
  | some m => exact (Emits.withEngine s { s.engine with scanMode := m }).finish .none

/-- SELCH selects a valid channel and leaves everything else alone (R160). -/
theorem execSelch_emits {ch : Byte} {cs : Pin} {s : State} {least most : Nat}
    (h : eventCount s.params (.selch ch cs) = some (least, most)) :
    Returns (execSelch ch cs s) (Emits least most s) := by
  refine returns_whenLive ?_
  cases hch : channelValid ch with
  | false =>
    simp only [eventCount, hch] at h
    cases h
    rw [selectChannel_of_invalid hch]
    exact (Emits.refl s).finish .none
  | true =>
    simp only [eventCount, hch] at h
    cases h
    exact (emits_selectChannel hch cs s).finish .none

/-- RDCHAN has a fixed shape only for an invalid channel: its stop window (R169). -/
theorem execRdchan_emits {ch : Byte} {cs drdy : Pin} {s : State} {least most : Nat}
    (h : eventCount s.params (.rdchan ch cs drdy) = some (least, most)) :
    Returns (execRdchan ch cs drdy s) (Emits least most s) := by
  refine returns_whenLive (returns_whenSingleEnded ?_)
  cases hch : channelValid ch with
  | false =>
    simp only [eventCount, hch] at h
    cases h
    rw [readChannel_of_invalid hch]
    exact (emits_writeCommand _ cs s).finish _
  | true => simp [eventCount, hch] at h

/-- Every operation of fixed shape: its guards, then its body's events. -/
theorem exec_emits (i : Instr) {s : State} {least most : Nat} (h : eventCount s.params i = some (least, most)) :
    Returns (exec i s) (Emits least most s) := by
  cases i with
  | wcmd cmd cs => cases h; exact returns_whenLive ((emits_writeCommand cmd cs s).finish _)
  | wreg reg data cs => cases h; exact returns_whenLive ((emits_writeRegister reg data cs s).finish _)
  | rreg reg cs => cases h; exact returns_whenLive ((emits_readRegister reg cs s).finish _)
  | chksum value rx => cases h; exact returns_whenLive ((Emits.refl s).finish _)
  | waitrdy drdy => cases h; exact returns_whenLive ((emits_waitReady drdy s).finish _)
  | chipid cs => cases h; exact returns_whenLive ((emits_chipIdCheck cs s).finish _)
  | config delay rate cs => cases h; exact returns_whenLive ((emits_configure delay rate cs s).finish _)
  | init rate cs => cases h; exact returns_whenLive ((emits_initDevice rate cs s).finish _)
  | setmode mode => cases h; exact execSetmode_emits mode s
  | selch ch cs => exact execSelch_emits h
  | framerd cs => cases h; exact returns_whenLive ((emits_framedRead cs s).finish _)
  | rdchan ch cs drdy => exact execRdchan_emits h
  | rdchans list cs drdy => cases h
  | resetdev rst => cases h; exact returns_whenLive (((resetPulse_performed rst s).emits rfl).finish _)
  | shutdown => cases h; exact returns_whenLive ((Emits.withEngine s { s.engine with released := true }).finish _)
  | reserved id => cases h
  | wireCmd cmd cs => cases h; exact returns_whenLive ((emits_writeCommand cmd cs s).finish _)
  | stop cs => cases h; exact returns_whenLive ((emits_writeCommand _ cs s).finish _)
  | start cs => cases h; exact returns_whenLive ((emits_writeCommand _ cs s).finish _)
  | wireWreg reg data cs => cases h; exact returns_whenLive ((emits_writeRegister reg data cs s).finish _)
  | wireRreg reg cs => cases h; exact returns_whenLive ((emits_readRegister reg cs s).finish _)
  | wireFrame cs => cases h; exact returns_whenLive ((emits_framedRead cs s).finish _)

/-- Settles O53: the events are those of `exec_emits`. -/
theorem eventCountsAreAsListed : Obligations.EventCountsAreAsListed := by
  intro i s t least most hcount hexec
  obtain ⟨evs, hran, hlen⟩ := exec_emits i hcount t hexec
  exact ⟨evs, hran.trace, hlen⟩

end Sys2Proof.Machine
